-- ==== Sys2Proof/Config.lean ====
section
/-!
DEFINITION. The implementation parameters of the hardware (00_scope.md rule R7), as named constants.
Every value is the one rule R7's table gives (decisions D1, D5 to D8 of 92_eei_decisions.md). Every type of Word.lean and
State.lean and every definition of the machine uses these names, so a reader who learns another value changes it here
and touches no rule. A derived parameter stands beside the one it is derived from, and the theorems below refuse
values that do not agree. `CYCLE_CAP` is no constant: it is OPEN (decision D34) and is an argument of the driver in
Machine/Run.lean.
-/

namespace Sys2Proof.Config

/-- `CORE_COUNT`: number of cores, ids 0..3 (R7). -/
abbrev coreCount : Nat := 4

/-- `STAGES`: pipeline stages IF, ID, EX, MEM, WB (R7). -/
abbrev stageCount : Nat := 5

/-- `REG_COUNT`: registers per core (R7, R20). -/
abbrev regCount : Nat := 16

/-- `IMM_BITS`: immediate width before sign extension (R7, R92). -/
abbrev immBits : Nat := 12

/-- `XLEN`: width of a register, a data word, an instruction word and the bus data wire (R7, decision D1). -/
abbrev xlen : Nat := 32

/-- `IMEM_SIZE`: words of private instruction memory per core (R7, decision D5). -/
abbrev imemSize : Nat := 1024

/-- `PC_BITS` = log2 `IMEM_SIZE` (R7). -/
abbrev pcBits : Nat := 10

/-- `ADDR_BITS`: width of a data word address (R7, decision D6). -/
abbrev addrBits : Nat := 20

/-- System memory has exactly 2^`ADDR_BITS` words (R7, R66). -/
abbrev memSize : Nat := 1048576

/-- `BLOCK_WORDS`: words per cache block (R7, decision D7). -/
abbrev blockWords : Nat := 4

/-- `OFFSET_BITS` = log2 `BLOCK_WORDS` (R7). -/
abbrev offsetBits : Nat := 2

/-- `LINE_COUNT`: lines per cache (R7, decision D7). -/
abbrev lineCount : Nat := 64

/-- `INDEX_BITS` = log2 `LINE_COUNT` (R7). -/
abbrev indexBits : Nat := 6

/-- `TAG_BITS` = `ADDR_BITS` - `INDEX_BITS` - `OFFSET_BITS` (R7). -/
abbrev tagBits : Nat := 12

/-- `BUS_LATENCY`: cooldown cycles between the grant of a Read or ReadExclusive and its first word (R7, decision D8). -/
abbrev busLatency : Nat := 16

/-- R7: `IMEM_SIZE` is the power of two that `PC_BITS` addresses. -/
theorem imemSize_eq : imemSize = 2 ^ pcBits := rfl

/-- R7, R66: the memory depth is the masked address range. -/
theorem memSize_eq : memSize = 2 ^ addrBits := rfl

/-- R7: `BLOCK_WORDS` is a power of two. -/
theorem blockWords_eq : blockWords = 2 ^ offsetBits := rfl

/-- R7: `LINE_COUNT` is a power of two. -/
theorem lineCount_eq : lineCount = 2 ^ indexBits := rfl

/-- R7: the three parts of an address fill it, so `ADDR_BITS` is at least `INDEX_BITS` + `OFFSET_BITS`. -/
theorem addrBits_eq : tagBits + indexBits + offsetBits = addrBits := rfl

end Sys2Proof.Config
end

