-- ==== Sys2Proof/Word.lean ====
section
/-!
DEFINITION. The word types of the machine. What the spec treats as bits is a bit vector; what it uses as an index
(a register number, a core id, a cache line, a word of a block) is a bounded number. Every width and bound is a parameter
of rule R7.
-/

namespace Sys2Proof

/-- A register, a data word, an instruction word (`XLEN` bits: R7, R8). -/
abbrev Word := BitVec Config.xlen

/-- The number of a register, 0..15 (R20, R29). -/
abbrev RegNum := Fin Config.regCount

/-- A program counter: a word index into instruction memory (`PC_BITS` bits: R26). -/
abbrev Pc := BitVec Config.pcBits

/-- A data word address (`ADDR_BITS` bits: R60). -/
abbrev Addr := BitVec Config.addrBits

/-- The tag part of an address (`TAG_BITS` bits: R220). -/
abbrev Tag := BitVec Config.tagBits

/-- The line-index part of an address (R220), the number of a cache line (R39). -/
abbrev LineIndex := Fin Config.lineCount

/-- The word-offset part of an address (R220); also the bus word cursor (R45). -/
abbrev Offset := Fin Config.blockWords

/-- A core id, 0..3 (R9, R329). -/
abbrev CoreId := Fin Config.coreCount

end Sys2Proof
end

