-- ==== Sys2Proof/Syntax.lean ====
section
/-!
DEFINITION. The instruction set: one constructor per row of spec/opcode_table.json (30_encoding.md rule R93). There is
one format (R90, R91): every instruction carries the three register fields `rd`, `rs`, `rt` and the immediate, used or
not, because the hazard check compares `rs` and `rt` of every instruction (R96, R174). A word whose opcode is none of
the 19 is no `Instr`; the decoder rejects it by name and the pipeline gives it the effect of rule R161.
-/

namespace Sys2Proof

/-- The 19 instructions. The immediate is the sign-extended one of the Instruction record (R29, R92). -/
inductive Instr where
  | add (rd rs rt : RegNum) (imm : Word)   -- opcode 0, R111: `x[rd] <- rs + rt`
  | sub (rd rs rt : RegNum) (imm : Word)   -- opcode 1, R112: `x[rd] <- rs - rt`
  | and (rd rs rt : RegNum) (imm : Word)   -- opcode 2, R113: `x[rd] <- rs AND rt`
  | or (rd rs rt : RegNum) (imm : Word)   -- opcode 3, R114: `x[rd] <- rs OR rt`
  | xor (rd rs rt : RegNum) (imm : Word)   -- opcode 4, R115: `x[rd] <- rs XOR rt`
  | mul (rd rs rt : RegNum) (imm : Word)   -- opcode 5, R116: `x[rd] <- rs * rt`, low word
  | sll (rd rs rt : RegNum) (imm : Word)   -- opcode 6, R117: shift left logical
  | sra (rd rs rt : RegNum) (imm : Word)   -- opcode 7, R118: shift right arithmetic
  | srl (rd rs rt : RegNum) (imm : Word)   -- opcode 8, R119: shift right logical
  | beq (rd rs rt : RegNum) (imm : Word)   -- opcode 9, R131: branch to `rd` if `rs = rt`
  | bne (rd rs rt : RegNum) (imm : Word)   -- opcode 10, R132: branch to `rd` if `rs != rt`
  | blt (rd rs rt : RegNum) (imm : Word)   -- opcode 11, R133: branch to `rd` if `rs < rt`, signed
  | bgt (rd rs rt : RegNum) (imm : Word)   -- opcode 12, R134: branch to `rd` if `rs > rt`, signed
  | ble (rd rs rt : RegNum) (imm : Word)   -- opcode 13, R135: branch to `rd` if `rs <= rt`, signed
  | bge (rd rs rt : RegNum) (imm : Word)   -- opcode 14, R136: branch to `rd` if `rs >= rt`, signed
  | jal (rd rs rt : RegNum) (imm : Word)   -- opcode 15, R137: jump to `rd`, link in register 15
  | lw (rd rs rt : RegNum) (imm : Word)   -- opcode 16, R151: load the word at `rs + rt` into `rd`
  | sw (rd rs rt : RegNum) (imm : Word)   -- opcode 17, R152: store `rd` to the word at `rs + rt`
  | halt (rd rs rt : RegNum) (imm : Word)   -- opcode 20, R160: stop the core
deriving DecidableEq, Repr

/-- The opcode number of an instruction (R93). -/
def Instr.op : Instr → BitVec 8
  | .add _ _ _ _ => 0
  | .sub _ _ _ _ => 1
  | .and _ _ _ _ => 2
  | .or _ _ _ _ => 3
  | .xor _ _ _ _ => 4
  | .mul _ _ _ _ => 5
  | .sll _ _ _ _ => 6
  | .sra _ _ _ _ => 7
  | .srl _ _ _ _ => 8
  | .beq _ _ _ _ => 9
  | .bne _ _ _ _ => 10
  | .blt _ _ _ _ => 11
  | .bgt _ _ _ _ => 12
  | .ble _ _ _ _ => 13
  | .bge _ _ _ _ => 14
  | .jal _ _ _ _ => 15
  | .lw _ _ _ _ => 16
  | .sw _ _ _ _ => 17
  | .halt _ _ _ _ => 20

/-- The destination field (R91). -/
def Instr.rd : Instr → RegNum
  | .add rd _ _ _ => rd
  | .sub rd _ _ _ => rd
  | .and rd _ _ _ => rd
  | .or rd _ _ _ => rd
  | .xor rd _ _ _ => rd
  | .mul rd _ _ _ => rd
  | .sll rd _ _ _ => rd
  | .sra rd _ _ _ => rd
  | .srl rd _ _ _ => rd
  | .beq rd _ _ _ => rd
  | .bne rd _ _ _ => rd
  | .blt rd _ _ _ => rd
  | .bgt rd _ _ _ => rd
  | .ble rd _ _ _ => rd
  | .bge rd _ _ _ => rd
  | .jal rd _ _ _ => rd
  | .lw rd _ _ _ => rd
  | .sw rd _ _ _ => rd
  | .halt rd _ _ _ => rd

/-- The source field (R91). -/
def Instr.rs : Instr → RegNum
  | .add _ rs _ _ => rs
  | .sub _ rs _ _ => rs
  | .and _ rs _ _ => rs
  | .or _ rs _ _ => rs
  | .xor _ rs _ _ => rs
  | .mul _ rs _ _ => rs
  | .sll _ rs _ _ => rs
  | .sra _ rs _ _ => rs
  | .srl _ rs _ _ => rs
  | .beq _ rs _ _ => rs
  | .bne _ rs _ _ => rs
  | .blt _ rs _ _ => rs
  | .bgt _ rs _ _ => rs
  | .ble _ rs _ _ => rs
  | .bge _ rs _ _ => rs
  | .jal _ rs _ _ => rs
  | .lw _ rs _ _ => rs
  | .sw _ rs _ _ => rs
  | .halt _ rs _ _ => rs

/-- The target field (R91). -/
def Instr.rt : Instr → RegNum
  | .add _ _ rt _ => rt
  | .sub _ _ rt _ => rt
  | .and _ _ rt _ => rt
  | .or _ _ rt _ => rt
  | .xor _ _ rt _ => rt
  | .mul _ _ rt _ => rt
  | .sll _ _ rt _ => rt
  | .sra _ _ rt _ => rt
  | .srl _ _ rt _ => rt
  | .beq _ _ rt _ => rt
  | .bne _ _ rt _ => rt
  | .blt _ _ rt _ => rt
  | .bgt _ _ rt _ => rt
  | .ble _ _ rt _ => rt
  | .bge _ _ rt _ => rt
  | .jal _ _ rt _ => rt
  | .lw _ _ rt _ => rt
  | .sw _ _ rt _ => rt
  | .halt _ _ rt _ => rt

/-- The immediate field (R91). -/
def Instr.imm : Instr → Word
  | .add _ _ _ imm => imm
  | .sub _ _ _ imm => imm
  | .and _ _ _ imm => imm
  | .or _ _ _ imm => imm
  | .xor _ _ _ imm => imm
  | .mul _ _ _ imm => imm
  | .sll _ _ _ imm => imm
  | .sra _ _ _ imm => imm
  | .srl _ _ _ imm => imm
  | .beq _ _ _ imm => imm
  | .bne _ _ _ imm => imm
  | .blt _ _ _ imm => imm
  | .bgt _ _ _ imm => imm
  | .ble _ _ _ imm => imm
  | .bge _ _ _ imm => imm
  | .jal _ _ _ imm => imm
  | .lw _ _ _ imm => imm
  | .sw _ _ _ imm => imm
  | .halt _ _ _ imm => imm

/-- The Instruction record of rules R29 and R91: what decode makes of every 32-bit word, known opcode or not. -/
structure InstrRecord where
  raw : Word
  op : BitVec 8
  rd : RegNum
  rs : RegNum
  rt : RegNum
  imm : Word
deriving DecidableEq, Repr

end Sys2Proof
end

