-- ==== Sys2Proof/WellFormed.lean ====
section
/-!
DEFINITION. Which terms of `Instr` are instructions of the machine. The register fields are in range by their type; the
one thing left to check is the immediate, which is a 12-bit value sign-extended to a word (30_encoding.md rule R92).
-/

namespace Sys2Proof

/-- R92: the immediate is in the range of an `IMM_BITS`-bit signed value, -2048 .. 2047. -/
def immInRange (v : Word) : Bool := decide (-2 ^ (Config.immBits - 1) ≤ v.toInt) && decide (v.toInt < 2 ^ (Config.immBits - 1))

/-- An instruction is well formed when its immediate fits the 12-bit field (R91, R92). -/
def Instr.wellFormed (i : Instr) : Bool := immInRange i.imm

end Sys2Proof
end

