-- ==== Sys2Proof/Decode.lean ====
section
/-!
DEFINITION. The decoder and the encoder (30_encoding.md rules R90 to R98). `decodeRecord` is the total function of rule
R91; `decode` names the instruction the opcode selects (R93) or rejects the word by its opcode; `encode` is the
assembler's formula of rule R99.
-/

namespace Sys2Proof

/-- Sign extension of the 12-bit immediate field to a word (R92). -/
def sext12 (v : BitVec Config.immBits) : Word := v.signExtend Config.xlen

/-- R91: `decode(raw)`, the fields of the single format. Total: every 32-bit word gives a record. -/
def decodeRecord (raw : Word) : InstrRecord :=
  { raw := raw
    op := raw.extractLsb' 24 8
    rd := (raw.extractLsb' 20 4).toFin
    rs := (raw.extractLsb' 16 4).toFin
    rt := (raw.extractLsb' 12 4).toFin
    imm := sext12 (raw.extractLsb' 0 Config.immBits) }

/-- R93: the instruction that an opcode number selects; none for 18, 19 and 21..255. -/
def instrOfOp (op : Nat) (rd rs rt : RegNum) (imm : Word) : Option Instr :=
  match op with
  | 0 => some (.add rd rs rt imm)
  | 1 => some (.sub rd rs rt imm)
  | 2 => some (.and rd rs rt imm)
  | 3 => some (.or rd rs rt imm)
  | 4 => some (.xor rd rs rt imm)
  | 5 => some (.mul rd rs rt imm)
  | 6 => some (.sll rd rs rt imm)
  | 7 => some (.sra rd rs rt imm)
  | 8 => some (.srl rd rs rt imm)
  | 9 => some (.beq rd rs rt imm)
  | 10 => some (.bne rd rs rt imm)
  | 11 => some (.blt rd rs rt imm)
  | 12 => some (.bgt rd rs rt imm)
  | 13 => some (.ble rd rs rt imm)
  | 14 => some (.bge rd rs rt imm)
  | 15 => some (.jal rd rs rt imm)
  | 16 => some (.lw rd rs rt imm)
  | 17 => some (.sw rd rs rt imm)
  | 20 => some (.halt rd rs rt imm)
  | _ => none

/-- Why a word is no instruction of the table: its opcode is none of the 19 (R93). That the decoder rejects the word is a
DESIGN CHOICE (log entry 13: R91 decodes every word, R95 calls no encoding illegal). The machine still runs such a
word, as the no-op of rule R161. -/
inductive DecodeError where
  /-- The opcode field holds a number that rule R93 lists as unknown. -/
  | unknownOpcode (op : BitVec 8)
deriving DecidableEq, Repr

/-- The decoder: the instruction a word stands for, or the unknown opcode it carries (R91, R93, R95). -/
def decode (raw : Word) : Except DecodeError Instr :=
  let r := decodeRecord raw
  match instrOfOp r.op.toNat r.rd r.rs r.rt r.imm with
  | some i => .ok i
  | none => .error (.unknownOpcode r.op)

/-- The word made of the five fields of the single format (R91), most significant first. -/
def encodeFields (op : BitVec 8) (rd rs rt : RegNum) (imm : Word) : Word :=
  (op ++ (BitVec.ofFin rd : BitVec 4) ++ (BitVec.ofFin rs : BitVec 4) ++ (BitVec.ofFin rt : BitVec 4) ++
    imm.extractLsb' 0 Config.immBits).setWidth Config.xlen

/-- The encoder: the word of a well-formed instruction (R91, R93, R99). -/
def encode (i : Instr) : Word := encodeFields i.op i.rd i.rs i.rt i.imm

/-- The host's question: the instruction read from a table row whose bits are `w`. Every instruction is one 32-bit word
(R90), so the bits above `nbits` are 0 and no second word exists. -/
def decodeTableWord (nbits w : Nat) : Option Instr :=
  match decode (BitVec.ofNat Config.xlen (w % 2 ^ nbits)) with
  | .ok i => some i
  | .error _ => none

end Sys2Proof
end

