-- ==== Sys2Proof/Machine/State.lean ====
section
/-!
DEFINITION. The state of the machine (10_state.md) and its reset value (rule R53): four cores, each with its registers,
latches, five stage slots, instruction memory, cache, mailbox and counters; one shared bus; one system memory; the cycle
number. Two things are the MODEL's own and no state of the spec: the wires of a core in the cycle being evaluated
(`Signals`; 44_pipeline.md: "functions of the state at the start of the cycle") and the place of the evaluation
(`Focus`). Both hold their neutral value between two steps.
-/

namespace Sys2Proof.Machine

/-! ## Why a step can stop -/

/-- The hardware raises no exception and stops on no instruction (R320). The two constructors stand for the two states
of the bus for which the spec gives no rule; its invariants (R43, R47) say neither occurs. -/
inductive Fault where
  /-- Raised by the controller's idle step when the arbiter selects a mailbox that is pending but whose command is None
  or Flush. R240: a core never places a Flush in its mailbox; R241: a pending request is a Read or a ReadExclusive. Safe:
  the model stops where the spec has no rule, and no run from reset reaches it. -/
  | requestWithoutCommand
  /-- Raised by the controller's transfer step when the bus is busy and its command is None. R47: busy implies a command
  in flight. Safe: the model stops where the spec has no rule, and no run from reset reaches it. -/
  | busyWithoutCommand
deriving DecidableEq, Repr

/-- Reasons for having no meaning for an instruction. -/
inductive Refusal where
  /-- Raised by an arm of `exec` whose instruction has no meaning yet (none is left). Safe: the model stops. -/
  | notModelled (mnemonic : String)
deriving DecidableEq, Repr

/-! ## Memories -/

/-- A word memory: (word address, word) pairs, addresses strictly rising, no entry equal to what an unlisted address
reads as, which is the zero word (R38, R53, decision D40). Used for system memory (R48) and for the instruction
memories (R38). The unit is the 32-bit word: no address names a byte (R61). -/
abbrev Memory := List (Nat × Word)

/-- The canonical form of a memory of `size` words. -/
abbrev Memory.wf (size : Nat) (m : Memory) : Prop :=
  m.Pairwise (fun e f => e.1 < f.1) ∧ ∀ e ∈ m, e.1 < size ∧ e.2 ≠ 0#Config.xlen

/-! ## Pipeline -/

/-- The five pipeline stages (R31). -/
inductive Stage where
  | fetch | decode | execute | memory | writeback
deriving DecidableEq, Repr

/-- A stage slot (R30). The Instruction record is kept as its raw word, of which every field is a function (R29). -/
structure Slot where
  /-- 1 = real instruction, 0 = bubble. -/
  active : Bool
  /-- The instruction-memory address the instruction was fetched from. -/
  pc : Pc
  /-- The raw encoding. -/
  raw : Word
  /-- The computed result. -/
  result : Word
  /-- The stall flag: the signal `dec_stall` in `ID`, `mem_stall` in `MEM`, recomputed every cycle (R31). -/
  stall : Bool
deriving DecidableEq, Repr

/-- The bubble: `active = 0`, the other fields 0 by convention (R30). -/
def Slot.bubble : Slot := { active := false, pc := 0, raw := 0, result := 0, stall := false }

/-- The wires of one core in the cycle being evaluated. The MODEL's own field: the spec calls them signals, "functions of
the state at the start of the cycle" (44_pipeline.md, opening). `dec_stall` and `mem_stall` stand in the slots' stall
flags (R31). -/
structure Signals where
  /-- `ex_result` (R186). -/
  exResult : Word
  /-- `mem_result` (R190 to R193). -/
  memResult : Word
  /-- `redir_now` (R184). -/
  redirNow : Bool
  /-- `redir_tgt_now` (R184). -/
  redirTgtNow : Pc
  /-- `halt_now` (R185). -/
  haltNow : Bool
  /-- `halt_wb` (R196). -/
  haltWb : Bool
  /-- `fetch_en` (R195). -/
  fetchEn : Bool
  /-- `pc'`, latched at the clock edge (R195, R197, R205). -/
  pcNext : Pc
  /-- `redirect_pending'` (R197, R205). -/
  redirectPendingNext : Bool
  /-- `redirect_target'` (R197, R205). -/
  redirectTargetNext : Pc
deriving DecidableEq, Repr

/-- No wire driven. -/
def Signals.none : Signals :=
  { exResult := 0, memResult := 0, redirNow := false, redirTgtNow := 0, haltNow := false, haltWb := false,
    fetchEn := false, pcNext := 0, redirectPendingNext := false, redirectTargetNext := 0 }

/-! ## Cache, mailbox, bus -/

/-- The MESI states (R41). -/
inductive Mesi where
  | invalid | shared | exclusive | modified
deriving DecidableEq, Repr

/-- The 2-bit encoding of the MESI states (R41, decision D9). -/
def Mesi.code : Mesi → BitVec 2
  | .invalid => 0
  | .shared => 1
  | .exclusive => 2
  | .modified => 3

/-- The bus commands (R45, R46). -/
inductive BusCmd where
  | none | read | readExclusive | flush
deriving DecidableEq, Repr

/-- The 2-bit encoding of the bus commands (R46, decision D9). -/
def BusCmd.code : BusCmd → BitVec 2
  | .none => 0
  | .read => 1
  | .readExclusive => 2
  | .flush => 3

/-- An entry of the tag+state array (R39). -/
structure TagState where
  tag : Tag
  state : Mesi
deriving DecidableEq, Repr

/-- The words of one block (R40). -/
abbrev Block := Vector Word Config.blockWords

/-- One core's cache: the tag+state array and the data array (R39, R40). -/
structure Cache where
  ts : Vector TagState Config.lineCount
  data : Vector Block Config.lineCount
deriving DecidableEq, Repr

/-- One core's bus mailbox (R43). -/
structure Mailbox where
  pending : Bool
  done : Bool
  addr : Addr
  /-- `Read` or `ReadExclusive` once a request was made; `None` at reset (R53). -/
  cmd : BusCmd
  /-- The constant core id (R43, decision D41). -/
  requester : CoreId
deriving DecidableEq, Repr

/-- The shared bus state (R45). -/
structure Bus where
  cmd : BusCmd
  addr : Addr
  origid : CoreId
  shared : Bool
  /-- The data wire: the word moved in the current cycle (decision D30). -/
  data : Word
  cooldown : Nat
  /-- The word cursor, 0..`BLOCK_WORDS`-1 (R45). -/
  cursor : Offset
  busy : Bool
  lastGranted : CoreId
  postFlush : Mesi
deriving DecidableEq, Repr

/-- The eight statistic counters, unbounded (R37, R327). -/
structure Counters where
  cycles : Nat
  instructions : Nat
  readHit : Nat
  writeHit : Nat
  readMiss : Nat
  writeMiss : Nat
  decodeStall : Nat
  memStall : Nat
deriving DecidableEq, Repr

/-! ## One core, the whole machine -/

/-- One core (R9): the register file, the latches of rules R26 and R33 to R36, the five slots (R31), the counters, the
instruction memory (R38), the cache (R39, R40), the mailbox (R43), and the wires of the current cycle. -/
structure Core where
  /-- `x[0] .. x[15]` (R20). -/
  x : Vector Word Config.regCount
  pc : Pc
  slotIF : Slot
  slotID : Slot
  slotEX : Slot
  slotMEM : Slot
  slotWB : Slot
  stopFetch : Bool
  halted : Bool
  redirectPending : Bool
  redirectTarget : Pc
  wrPending : Bool
  wrDest : RegNum
  wrValue : Word
  counters : Counters
  imem : Memory
  cache : Cache
  mbox : Mailbox
  sig : Signals
deriving DecidableEq, Repr

/-- Which stage of which core the evaluation phase is at. The MODEL's own field. -/
structure Focus where
  core : CoreId
  stage : Stage
deriving DecidableEq, Repr

/-- The state of the machine. -/
structure State where
  /-- The cores, by id (R9, R329). -/
  cores : Vector Core Config.coreCount
  /-- The one shared bus (R45). -/
  bus : Bus
  /-- System memory (R48). -/
  mem : Memory
  /-- The number of clock edges since reset (R49). -/
  cycle : Nat
  /-- The stage slot whose instruction `exec` evaluates (the MODEL's own). -/
  focus : Focus
deriving DecidableEq, Repr

/-! ## Reset (rules R53 and R350) -/

/-- All eight counters at 0. -/
def Counters.reset : Counters :=
  { cycles := 0, instructions := 0, readHit := 0, writeHit := 0, readMiss := 0, writeMiss := 0, decodeStall := 0,
    memStall := 0 }

/-- Every line `Invalid` with tag 0 and data 0. -/
def Cache.reset : Cache :=
  { ts := Vector.replicate Config.lineCount { tag := 0, state := .invalid }
    data := Vector.replicate Config.lineCount (Vector.replicate Config.blockWords 0) }

/-- The empty mailbox of core `c`. -/
def Mailbox.reset (c : CoreId) : Mailbox :=
  { pending := false, done := false, addr := 0, cmd := .none, requester := c }

/-- The idle bus; `last_granted = CORE_COUNT - 1`, so that the first scan starts at core 0 (decision D11). -/
def Bus.reset : Bus :=
  { cmd := .none, addr := 0, origid := 0, shared := false, data := 0, cooldown := 0, cursor := 0, busy := false,
    lastGranted := ⟨Config.coreCount - 1, by decide⟩, postFlush := .invalid }

/-- Core `c` after reset, with no instruction image: every instruction word reads 0 (R38, R53). -/
def Core.reset (c : CoreId) : Core :=
  { x := Vector.replicate Config.regCount 0
    pc := 0
    slotIF := Slot.bubble
    slotID := Slot.bubble
    slotEX := Slot.bubble
    slotMEM := Slot.bubble
    slotWB := Slot.bubble
    stopFetch := false
    halted := false
    redirectPending := false
    redirectTarget := 0
    wrPending := false
    wrDest := 0
    wrValue := 0
    counters := Counters.reset
    imem := []
    cache := Cache.reset
    mbox := Mailbox.reset c
    sig := Signals.none }

/-- The place the evaluation phase starts from; what `focus` holds between two steps. -/
def Focus.rest : Focus := { core := 0, stage := .writeback }

/-- The machine right after reset, before any image is loaded (R53, R350; the images are inputs: R54, R308). -/
def State.reset : State :=
  { cores := Vector.ofFn Core.reset
    bus := Bus.reset
    mem := []
    cycle := 0
    focus := Focus.rest }

end Sys2Proof.Machine
end

