-- ==== Sys2Proof/Machine/Ops.lean ====
section
/-!
DEFINITION. The named operations over memories, registers, cores and mailboxes that the meanings share. Taking an
exception and returning from one have no operation here: the hardware raises no exception and takes no interrupt
(60_exceptions.md rules R320, R322, R324, R325).
-/

namespace Sys2Proof.Machine

/-! ## Memories -/

/-- The word at an address; an address the list does not hold reads 0 (R38, R53, decision D40). -/
def Memory.read : Memory → Nat → Word
  | [], _ => 0
  | (b, w) :: m, a => if a = b then w else Memory.read m a

/-- Write one word, keeping the canonical form: addresses rising, a zero word leaves no entry. -/
def Memory.write : Memory → Nat → Word → Memory
  | [], a, v => if v = 0#Config.xlen then [] else [(a, v)]
  | (b, w) :: m, a, v =>
    if a < b then (if v = 0#Config.xlen then (b, w) :: m else (a, v) :: (b, w) :: m)
    else if a = b then (if v = 0#Config.xlen then m else (a, v) :: m)
    else (b, w) :: Memory.write m a v

/-- An image: word `p` of the list at address `base + p` (R101, R352). -/
def Memory.ofImage (base : Nat) : List Word → Memory
  | [] => []
  | w :: ws => if w = 0#Config.xlen then Memory.ofImage (base + 1) ws else (base, w) :: Memory.ofImage (base + 1) ws

/-! ## Outcomes -/

/-- Go on with `f` from the next state; a stop stays a stop. -/
def andThen (o : Host.Outcome State Fault Refusal) (f : State → Host.Outcome State Fault Refusal) :
    Host.Outcome State Fault Refusal :=
  match o with
  | .next s => f s
  | .fault r => .fault r
  | .refused r => .refused r

/-! ## Cores -/

/-- The core at an id (R9). -/
def State.core (s : State) (c : CoreId) : Core := s.cores[c]

/-- Replace core `c` by what `f` makes of it. -/
def State.onCore (s : State) (c : CoreId) (f : Core → Core) : State :=
  { s with cores := s.cores.set c (f s.cores[c]) }

/-- Do the same to every core. The cores are independent of one another, so no order among them matters (R301, R302). -/
def State.onEveryCore (s : State) (f : Core → Core) : State :=
  { s with cores := s.cores.map f }

/-- Put the evaluation at a stage of a core. -/
def State.withFocus (s : State) (f : Focus) : State := { s with focus := f }

/-- What an instruction does in the stage under evaluation: `f` says it per stage, on the core under evaluation, the
only one it reads or writes (R301). -/
def State.onFocus (s : State) (f : Stage → Core → Core) : State :=
  s.onCore s.focus.core (f s.focus.stage)

/-- The core under evaluation. -/
def State.focusCore (s : State) : Core := s.core s.focus.core

/-! ## The mailbox, core side (46_mailbox.md) -/

/-- Issue a request (R241): the full word address, the command, `pending` set and `done` clear. -/
def Mailbox.issue (m : Mailbox) (a : Addr) (k : BusCmd) : Mailbox :=
  { m with addr := a, cmd := k, pending := true, done := false }

/-- Acknowledge a completion: clear `done` (R190, R191, R244). -/
def Mailbox.acknowledge (m : Mailbox) : Mailbox := { m with done := false }

/-- Completion by the controller (R243, R272). -/
def Mailbox.complete (m : Mailbox) : Mailbox := { m with done := true, pending := false }

/-- R242: a pending, not-done request takes part in arbitration. -/
def Mailbox.eligible (m : Mailbox) : Bool := m.pending && !m.done

/-! ## Images (10_state.md rules R53, R54; 70_reset_and_hazards.md rule R352) -/

/-- Load the four instruction images and the initial memory image, the only inputs of a run (R54, R308). An instruction
image has at most `IMEM_SIZE` words (R101), the memory image at most 2^`ADDR_BITS` (R66). -/
def State.loadImages (s : State) (images : Vector (List Word) Config.coreCount) (memImage : List Word) : State :=
  { s with
    cores := s.cores.zipWith (fun k img => { k with imem := Memory.ofImage 0 (img.take Config.imemSize) }) images
    mem := Memory.ofImage 0 (memImage.take Config.memSize) }

end Sys2Proof.Machine
end

