-- ==== Sys2Proof/Machine/Operands.lean ====
section
/-!
DEFINITION. The operand forms: the operand read with its two reserved registers (10_state.md rules R21 to R24), the
effective address (42_load_store.md rule R150), the branch target and the link value (41_branch_jump.md rules R137,
R138), the shift amount (40_alu.md rule R117), and the registers an instruction writes and is taken to read
(44_pipeline.md rules R173, R174).
-/

namespace Sys2Proof.Machine

/-- The operand read on a register file (R24): register 0 reads zero, register 1 the reading instruction's own
immediate, any other register its content. -/
def regOperand (x : Vector Word Config.regCount) (n : RegNum) (imm : Word) : Word :=
  if n = 0 then 0 else if n = 1 then imm else x[n]

/-- R24: `opval(n, I)`, on the register file as it is at the start of the cycle. -/
def opval (k : Core) (n : RegNum) (imm : Word) : Word := regOperand k.x n imm

/-- The low `ADDR_BITS` bits of a word (R150). -/
def addrOfWord (v : Word) : Addr := v.setWidth Config.addrBits

/-- R150, R186: the effective word address, zero-extended to the result field. -/
def effectiveAddress (a b : Word) : Word := (addrOfWord (a + b)).setWidth Config.xlen

/-- R138: the low `PC_BITS` bits of the target operand. -/
def branchTarget (v : Word) : Pc := v.setWidth Config.pcBits

/-- R137, R186: the link value of a `jal` at `pc`, the next sequential PC zero-extended. `Pc` wraps at `IMEM_SIZE`. -/
def linkValue (pc : Pc) : Word := (pc + 1).setWidth Config.xlen

/-- R117: the shift amount, the low 5 bits of the second operand (decision D19, item U3 of
93_implementation_defined.md: a replaceable function). -/
def shamt (b : Word) : Nat := (b.extractLsb' 0 5).toNat

/-- R173: destinations 0 and 1 are replaced by none. -/
def writable (n : RegNum) : Option RegNum := if n = 0 ∨ n = 1 then none else some n

/-- R173: the register an instruction record will write. -/
def recordDest (r : InstrRecord) : Option RegNum :=
  if r.op ≤ 8 ∨ r.op = 16 then writable r.rd else if r.op = 15 then writable 15 else none

/-- R173: `dest(S)`, the register the instruction in a slot will write; none for a bubble. -/
def Slot.dest (S : Slot) : Option RegNum := if S.active then recordDest (decodeRecord S.raw) else none

/-- R174: `srcs(I)`, the registers the decode instruction is taken to read. -/
def recordSrcs (r : InstrRecord) : List RegNum :=
  if (9 ≤ r.op ∧ r.op ≤ 15) ∨ r.op = 17 then [r.rs, r.rt, r.rd] else [r.rs, r.rt]

end Sys2Proof.Machine
end

