-- ==== Sys2Proof/Machine/Cache.lean ====
section
/-!
DEFINITION. The per-core cache (45_cache.md): the address decomposition, the hit-test, the read and the write-attempt.
-/

namespace Sys2Proof.Machine

/-! ## Address decomposition (R220) -/

/-- `offset(a)`: the low `OFFSET_BITS` bits, a[1:0]. -/
def addrOffset (a : Addr) : Offset := (a.extractLsb' 0 Config.offsetBits).toFin

/-- `index(a)`: the next `INDEX_BITS` bits, a[7:2]. -/
def addrIndex (a : Addr) : LineIndex := (a.extractLsb' Config.offsetBits Config.indexBits).toFin

/-- `tag(a)`: the remaining `TAG_BITS` bits, a[19:8]. -/
def addrTag (a : Addr) : Tag := a.extractLsb' (Config.offsetBits + Config.indexBits) Config.tagBits

/-- The address of word `o` of the block resident in line `i` with tag `t`: the three parts side by side. -/
def wordAddr (t : Tag) (i : LineIndex) (o : Offset) : Addr :=
  t ++ (BitVec.ofFin i : BitVec Config.indexBits) ++ (BitVec.ofFin o : BitVec Config.offsetBits)

/-- `block_base(a)`: the address of word 0 of the block of `a`. -/
def blockBase (a : Addr) : Addr := a.extractLsb' Config.offsetBits (Config.tagBits + Config.indexBits) ++ (0 : BitVec Config.offsetBits)

/-! ## Arrays -/

/-- The tag+state record of a line (R39). -/
def Cache.line (c : Cache) (i : LineIndex) : TagState := c.ts[i]

/-- Replace the tag+state record of a line. -/
def Cache.setLine (c : Cache) (i : LineIndex) (t : TagState) : Cache := { c with ts := c.ts.set i t }

/-- Change the MESI state of a line, leaving its tag. -/
def Cache.setState (c : Cache) (i : LineIndex) (m : Mesi) : Cache := c.setLine i { c.line i with state := m }

/-- Word `o` of the block resident in line `i` (R40). -/
def Cache.word (c : Cache) (i : LineIndex) (o : Offset) : Word := c.data[i][o]

/-- Replace one word of the data array. -/
def Cache.setWord (c : Cache) (i : LineIndex) (o : Offset) (v : Word) : Cache :=
  { c with data := c.data.set i (c.data[i].set o v) }

/-! ## The primitives of the memory stage -/

/-- The line of `a` holds the block of `a` in some valid state. -/
def Cache.holds (c : Cache) (a : Addr) : Bool :=
  decide ((c.line (addrIndex a)).state ≠ .invalid) && decide ((c.line (addrIndex a)).tag = addrTag a)

/-- R221: the hit-test. -/
def Cache.hit (c : Cache) (a : Addr) : Bool := c.holds a

/-- R222: the read, valid only after a confirmed hit. -/
def Cache.read (c : Cache) (a : Addr) : Word := c.word (addrIndex a) (addrOffset a)

/-- R223 case (1): the line can be written in place. -/
def Cache.ownsForWrite (c : Cache) (a : Addr) : Bool :=
  decide ((c.line (addrIndex a)).tag = addrTag a) &&
    (decide ((c.line (addrIndex a)).state = .modified) || decide ((c.line (addrIndex a)).state = .exclusive))

/-- R223 case (1): write in place and set the line `Modified`. -/
def Cache.writeInPlace (c : Cache) (a : Addr) (v : Word) : Cache :=
  (c.setWord (addrIndex a) (addrOffset a) v).setState (addrIndex a) .modified

end Sys2Proof.Machine
end

