-- ==== Sys2Proof/Machine/Flags.lean ====
section
/-!
DEFINITION. There are no status flags, condition codes or predicate registers and no instruction writes one
(10_state.md rule R28). What takes their place is the direct compare of two register operands in the decode stage: the
branch conditions of 41_branch_jump.md rules R131 to R136 (44_pipeline.md rule R184).
-/

namespace Sys2Proof.Machine

/-- R131: `a = b`. -/
def takenBeq (a b : Word) : Bool := decide (a = b)

/-- R132: `a != b`. -/
def takenBne (a b : Word) : Bool := decide (a ≠ b)

/-- R133: `signed(a) < signed(b)`. -/
def takenBlt (a b : Word) : Bool := decide (a.toInt < b.toInt)

/-- R134: `signed(a) > signed(b)`. -/
def takenBgt (a b : Word) : Bool := decide (a.toInt > b.toInt)

/-- R135: `signed(a) <= signed(b)`. -/
def takenBle (a b : Word) : Bool := decide (a.toInt ≤ b.toInt)

/-- R136: `signed(a) >= signed(b)`. -/
def takenBge (a b : Word) : Bool := decide (a.toInt ≥ b.toInt)

end Sys2Proof.Machine
end

