-- ==== Sys2Proof/Machine/Pipeline.lean ====
section
/-!
DEFINITION. The pipeline of one core (44_pipeline.md): the hazard condition, what the five stages do for an
instruction, and the clock edge. Every stage function reads the slots, registers and latches as they were at the start
of the cycle, because none of them is changed before the clock edge (R170); a stage hands its signals on through the
core's wires and the slots' stall flags.
-/

namespace Sys2Proof.Machine

/-! ## Hazard detection (R173, R174, R180) -/

/-- R180: an instruction in execute, memory or writeback will write a register of `srcs`. -/
def hazard (k : Core) (srcs : List RegNum) : Bool :=
  [k.slotEX, k.slotMEM, k.slotWB].any fun S =>
    match S.dest with
    | some d => srcs.contains d
    | none => false

/-! ## Wires -/

/-- Set `dec_stall` (R31, R180). -/
def Core.setDecStall (k : Core) (b : Bool) : Core := { k with slotID := { k.slotID with stall := b } }

/-- Set `mem_stall` (R31, R194). -/
def Core.setMemStall (k : Core) (b : Bool) : Core := { k with slotMEM := { k.slotMEM with stall := b } }

/-- Drive `ex_result` (R186). -/
def Core.setExResult (k : Core) (v : Word) : Core := { k with sig := { k.sig with exResult := v } }

/-- Drive `mem_result` (R190 to R193). -/
def Core.setMemResult (k : Core) (v : Word) : Core := { k with sig := { k.sig with memResult := v } }

/-- Drive `redir_now` and `redir_tgt_now` (R184). -/
def Core.setRedirect (k : Core) (taken : Bool) (target : Pc) : Core :=
  { k with sig := { k.sig with redirNow := taken, redirTgtNow := target } }

/-- Drive `halt_now` (R185). -/
def Core.setHaltNow (k : Core) : Core := { k with sig := { k.sig with haltNow := true } }

/-- Drive `halt_wb` (R196). -/
def Core.setHaltWb (k : Core) : Core := { k with sig := { k.sig with haltWb := true } }

/-- No wire driven and no stall flag set: what a core holds between two cycles (R31, R181). -/
def Core.clearSignals (k : Core) : Core :=
  { (k.setDecStall false).setMemStall false with sig := Signals.none }

/-! ## Decode (R180 to R185) -/

/-- R183: the decode stage of an instruction that is taken to read `srcs`. With a hazard it raises `dec_stall` and does
nothing else (R182); without one it does `act`. -/
def decodeStage (srcs : List RegNum) (act : Core → Core) (k : Core) : Core :=
  if hazard k srcs then k.setDecStall true else act k

/-- R184: a branch or jump resolved in decode, its target the `rd` operand (R138). -/
def resolve (cond : Word → Word → Bool) (rd rs rt : RegNum) (imm : Word) (k : Core) : Core :=
  k.setRedirect (cond (opval k rs imm) (opval k rt imm)) (branchTarget (opval k rd imm))

/-! ## Execute (R186) -/

/-- R186, `op` 0..8: the result of an arithmetic or logic instruction. -/
def executeAlu (alu : Word → Word → Word) (rs rt : RegNum) (imm : Word) (k : Core) : Core :=
  k.setExResult (alu (opval k rs imm) (opval k rt imm))

/-- R186, `op` 16 or 17: the effective address. -/
def executeAddress (rs rt : RegNum) (imm : Word) (k : Core) : Core :=
  k.setExResult (effectiveAddress (opval k rs imm) (opval k rt imm))

/-- R186, `op` 15: the link value, from the slot's own `pc`. -/
def executeLink (k : Core) : Core := k.setExResult (linkValue k.slotEX.pc)

/-- R186, any other opcode: 0, never used. -/
def executeNothing (k : Core) : Core := k.setExResult 0

/-! ## Memory (R190 to R194) -/

/-- R193: an instruction that is no load or store passes. -/
def passMemory (k : Core) : Core := k.setMemResult k.slotMEM.result

/-- The counter of a first access; the retry counts as neither hit nor miss (R190, R191, decision D42). -/
def Core.countAccess (k : Core) (retry : Bool) (f : Counters → Counters) : Core :=
  if retry then k else { k with counters := f k.counters }

/-- Acknowledge a completed request, if there is one (R190, R191, R244). -/
def Core.acknowledge (k : Core) : Core := { k with mbox := k.mbox.acknowledge }

/-- Issue a request for `a` through the mailbox (R241). -/
def Core.request (k : Core) (a : Addr) (cmd : BusCmd) : Core := { k with mbox := k.mbox.issue a cmd }

/-- R223: the write-attempt and whether it succeeded. Case (1) writes in place; cases (2) and (3) write nothing and
issue a ReadExclusive. -/
def writeAttempt (a : Addr) (v : Word) (k : Core) : Core × Bool :=
  if k.cache.ownsForWrite a then ({ k with cache := k.cache.writeInPlace a v }, true)
  else (k.request a .readExclusive, false)

/-- R190, R192: the memory stage of a load. -/
def loadStage (k : Core) : Core :=
  if k.mbox.pending then k.setMemStall true
  else
    let retry := k.mbox.done
    let a := addrOfWord k.slotMEM.result
    if k.cache.hit a then
      (k.acknowledge.countAccess retry fun n => { n with readHit := n.readHit + 1 }).setMemResult (k.cache.read a)
    else
      ((k.acknowledge.countAccess retry fun n => { n with readMiss := n.readMiss + 1 }).request a .read).setMemStall true

/-- R191, R192: the memory stage of a store of `v`. -/
def storeStage (v : Word) (k : Core) : Core :=
  if k.mbox.pending then k.setMemStall true
  else
    let retry := k.mbox.done
    let a := addrOfWord k.slotMEM.result
    match writeAttempt a v k.acknowledge with
    | (k', true) => (k'.countAccess retry fun n => { n with writeHit := n.writeHit + 1 }).setMemResult k.slotMEM.result
    | (k', false) => (k'.countAccess retry fun n => { n with writeMiss := n.writeMiss + 1 }).setMemStall true

/-! ## Writeback (R196) -/

/-- R196: an active instruction in writeback is counted, whatever its opcode. -/
def retire (k : Core) : Core :=
  { k with counters := { k.counters with instructions := k.counters.instructions + 1 } }

/-- R196: retire and latch the pending write of the slot's result to `rd`, unless `rd` is 0 or 1 (R173). -/
def writeback (rd : RegNum) (k : Core) : Core :=
  match writable rd with
  | some d => { retire k with wrPending := true, wrDest := d, wrValue := k.slotWB.result }
  | none => retire k

/-! ## Fetch (R195, R197) -/

/-- R195: `fetch_en`. -/
def fetchEnable (k : Core) : Bool :=
  !k.slotMEM.stall && !k.slotID.stall && !k.stopFetch && !k.sig.haltNow && !k.halted

/-- R197: `redir_valid`. -/
def redirValid (k : Core) : Bool := k.redirectPending || k.sig.redirNow

/-- R197: `redir_tgt`. -/
def redirTarget (k : Core) : Pc := if k.sig.redirNow then k.sig.redirTgtNow else k.redirectTarget

/-- R195: the word fetch reads, at the program counter. -/
def fetchWord (k : Core) : Word := k.imem.read k.pc.toNat

/-- R195, R197: the fetch stage. An enabled fetch fills the `IF` slot with the word at `pc` and moves `pc` on, to the
pending target if there is one; a suppressed fetch keeps `pc` and the redirect. -/
def fetchStage (k : Core) : Core :=
  if fetchEnable k then
    { k with
      slotIF := { active := true, pc := k.pc, raw := fetchWord k, result := 0, stall := false }
      sig := { k.sig with
        fetchEn := true
        pcNext := if redirValid k then redirTarget k else k.pc + 1
        redirectPendingNext := false
        redirectTargetNext := k.redirectTarget } }
  else
    { k with sig := { k.sig with
        fetchEn := false
        pcNext := k.pc
        redirectPendingNext := redirValid k
        redirectTargetNext := redirTarget k } }

/-! ## The stages of an instruction, by class (30_encoding.md rule R94) -/

/-- The five stages of an arithmetic or logic instruction (R110). -/
def aluStages (alu : Word → Word → Word) (rd rs rt : RegNum) (imm : Word) (st : Stage) (k : Core) : Core :=
  match st with
  | .fetch => fetchStage k
  | .decode => decodeStage [rs, rt] id k
  | .execute => executeAlu alu rs rt imm k
  | .memory => passMemory k
  | .writeback => writeback rd k

/-- The five stages of a conditional branch (R130, R131, R138). -/
def branchStages (cond : Word → Word → Bool) (rd rs rt : RegNum) (imm : Word) (st : Stage) (k : Core) : Core :=
  match st with
  | .fetch => fetchStage k
  | .decode => decodeStage [rs, rt, rd] (resolve cond rd rs rt imm) k
  | .execute => executeNothing k
  | .memory => passMemory k
  | .writeback => retire k

/-- The five stages of an instruction that does nothing but retire and, in decode, be checked for hazards on `rs` and
`rt`: what an unknown opcode does (R161). -/
def idleStages (rs rt : RegNum) (st : Stage) (k : Core) : Core :=
  match st with
  | .fetch => fetchStage k
  | .decode => decodeStage [rs, rt] id k
  | .execute => executeNothing k
  | .memory => passMemory k
  | .writeback => retire k

/-- What a stage does when its slot is a bubble: no effect (R183, R186, R193, R196); the memory stage passes the slot's
result. The fetch stage never meets one. -/
def bubbleStages (st : Stage) (k : Core) : Core :=
  match st with
  | .fetch => k
  | .decode => k
  | .execute => k
  | .memory => passMemory k
  | .writeback => k

/-! ## The clock edge (R200 to R206) -/

/-- A slot moving to the next stage with a new result; a bubble moves as a bubble (R201). -/
def Slot.advance (S : Slot) (v : Word) : Slot :=
  if S.active then { S with result := v, stall := false } else Slot.bubble

/-- R206: the counters of the edge. -/
def edgeCounters (k : Core) : Core :=
  { k with counters := { k.counters with
      memStall := k.counters.memStall + (if k.slotMEM.stall then 1 else 0)
      decodeStall := k.counters.decodeStall + (if k.slotID.stall then 1 else 0)
      cycles := k.counters.cycles + (if k.halted then 0 else 1) } }

/-- R200 to R203: the slots advance. -/
def edgeSlots (k : Core) : Core :=
  if k.slotMEM.stall then { k with slotWB := Slot.bubble }
  else if k.slotID.stall then
    { k with
      slotWB := k.slotMEM.advance k.sig.memResult
      slotMEM := k.slotEX.advance k.sig.exResult
      slotEX := Slot.bubble }
  else
    { k with
      slotWB := k.slotMEM.advance k.sig.memResult
      slotMEM := k.slotEX.advance k.sig.exResult
      slotEX := k.slotID.advance 0
      slotID := k.slotIF
      slotIF := Slot.bubble }

/-- The immediate alias cell after the edge: the immediate of the instruction now in decode, kept while decode holds a
bubble (R22, R204, decision D18). -/
def aliasValue (k : Core) : Word := if k.slotID.active then (decodeRecord k.slotID.raw).imm else k.x[1]

/-- The register file after the commit: hardwired zero, immediate alias, pending write, in this order (R204). -/
def committedRegs (k : Core) : Vector Word Config.regCount :=
  let y := (k.x.set 0 0).set 1 (aliasValue k)
  if k.wrPending then y.set k.wrDest k.wrValue else y

/-- R204: the register commit, after the stage advance; the pending-write latch is cleared. -/
def edgeCommit (k : Core) : Core :=
  { k with x := committedRegs k, wrPending := false, wrDest := 0, wrValue := 0 }

/-- R205: `pc`, the redirect latch, `stop_fetch` and `halted`. -/
def edgeLatches (k : Core) : Core :=
  { k with
    pc := k.sig.pcNext
    redirectPending := k.sig.redirectPendingNext
    redirectTarget := k.sig.redirectTargetNext
    stopFetch := k.stopFetch || k.sig.haltNow
    halted := k.halted || k.sig.haltWb }

/-- R300 (d): the clock edge of one core. -/
def clockEdge (k : Core) : Core :=
  (edgeLatches (edgeCommit (edgeSlots (edgeCounters k)))).clearSignals

end Sys2Proof.Machine
end

