-- ==== Sys2Proof/Machine/Bus.lean ====
section
/-!
DEFINITION. The coherence bus controller (47_bus_controller.md): one step per cycle, after every core's evaluation
(R300). Its assignments take effect at once, in the order written.
-/

namespace Sys2Proof.Machine

/-! ## Small updates -/

/-- Change the bus. -/
def State.onBus (s : State) (f : Bus → Bus) : State := { s with bus := f s.bus }

/-- The tag+state record of core `c`'s line `i`. -/
def State.line (s : State) (c : CoreId) (i : LineIndex) : TagState := (s.core c).cache.line i

/-- Change the MESI state of core `c`'s line `i`, leaving tag and data. -/
def State.setLineState (s : State) (c : CoreId) (i : LineIndex) (m : Mesi) : State :=
  s.onCore c fun k => { k with cache := k.cache.setState i m }

/-- R257: reset the bus wires. -/
def Bus.resetWires (b : Bus) : Bus := { b with cmd := .none, addr := 0, origid := 0, shared := false, data := 0 }

/-- R264: grant the bus. -/
def Bus.grant (b : Bus) (k : BusCmd) (a : Addr) (r : CoreId) : Bus :=
  { b with cmd := k, addr := a, origid := r, cooldown := Config.busLatency, cursor := 0, busy := true }

/-- R265: start an internal flush of owner `o`'s block at base address `f`, with post-flush state `p`. -/
def Bus.startFlush (b : Bus) (o : CoreId) (f : Addr) (p : Mesi) : Bus :=
  { b with cmd := .flush, addr := f, origid := o, cooldown := 0, cursor := 0, busy := true, postFlush := p }

/-! ## Idle step: arbitration, eviction check, snoop check (R257 to R265) -/

/-- R258: the scan order, from just after the last-granted core, the last candidate being that core itself. -/
def scanOrder (last : CoreId) : List CoreId := (List.finRange Config.coreCount).map fun j => last + (j + 1)

/-- R258: the selected requester, the first eligible one in the scan order. -/
def arbitrate (s : State) : Option CoreId :=
  (scanOrder s.bus.lastGranted).find? fun r => (s.core r).mbox.eligible

/-- R259: the requester's own target line holds Modified data under a different tag. -/
def mustEvict (s : State) (r : CoreId) (a : Addr) : Bool :=
  decide ((s.line r (addrIndex a)).state = .modified) && decide ((s.line r (addrIndex a)).tag ≠ addrTag a)

/-- R261: the state a snooped Modified line takes when its flush finalizes. -/
def postFlushOf (k : BusCmd) : Mesi := if k = .read then .shared else .invalid

/-- R262, R263: the state a snooped non-Modified line of the block takes at once. -/
def snoopedState (k : BusCmd) : Mesi := if k = .read then .shared else .invalid

/-- R260 to R264: the snoop scan over the listed cores, in order, for the request `k` of `r` for `a`; the grant at its
end. A Modified match starts a flush and ends the scan; an Exclusive or Shared match goes to `Shared` under a Read and
to `Invalid` under a ReadExclusive (a Shared line under a Read is left as it is). -/
def snoopScan (r : CoreId) (k : BusCmd) (a : Addr) : List CoreId → State → State
  | [], s => s.onBus fun b => b.grant k a r
  | o :: os, s =>
    if o = r then snoopScan r k a os s
    else if (s.core o).cache.holds a then
      let s := s.onBus fun b => { b with shared := true }
      if (s.line o (addrIndex a)).state = .modified then
        s.onBus fun b => b.startFlush o (blockBase a) (postFlushOf k)
      else snoopScan r k a os (s.setLineState o (addrIndex a) (snoopedState k))
    else snoopScan r k a os s

/-- The cores in ascending id, the order of the snoop scan (R260, decision D28). -/
def allCores : List CoreId := List.finRange Config.coreCount

/-- R259 to R264: serve the request `k` for `a` of the selected requester `r`. -/
def serve (s : State) (r : CoreId) (k : BusCmd) (a : Addr) : State :=
  if mustEvict s r a then
    s.onBus fun b => b.startFlush r (wordAddr (s.line r (addrIndex a)).tag (addrIndex a) 0) .invalid
  else snoopScan r k a allCores s

/-- R257, R258: the idle step. -/
def idleStep (s : State) : Host.Outcome State Fault Refusal :=
  let s := s.onBus Bus.resetWires
  match arbitrate s with
  | none => .next s
  | some r =>
    match (s.core r).mbox.cmd with
    | .read => .next (serve s r .read (s.core r).mbox.addr)
    | .readExclusive => .next (serve s r .readExclusive (s.core r).mbox.addr)
    | .none => .fault .requestWithoutCommand
    | .flush => .fault .requestWithoutCommand

/-! ## Busy steps (R266 to R273) -/

/-- R266: decrement the cooldown counter only. -/
def cooldownStep (s : State) : State := s.onBus fun b => { b with cooldown := b.cooldown - 1 }

/-- The address of the word a transfer step moves: the block-aligned address plus the cursor (R267, R268). -/
def transferAddr (b : Bus) : Addr := blockBase b.addr + BitVec.ofNat Config.addrBits b.cursor

/-- The cursor after one word (R267, R268); after the last word it is back at 0, as finalize leaves it (R273). -/
def Bus.advanceCursor (b : Bus) (w : Word) : Bus := { b with data := w, cursor := b.cursor + 1 }

/-- The word moved is the last one of the block: the cursor reaches `BLOCK_WORDS` (R256). -/
def lastWord (b : Bus) : Bool := decide (b.cursor.val + 1 = Config.blockWords)

/-- R267: one word from memory to the requester's cache data. -/
def fillWord (s : State) : State :=
  let w := s.mem.read (transferAddr s.bus).toNat
  (s.onCore s.bus.origid fun k => { k with cache := k.cache.setWord (addrIndex s.bus.addr) s.bus.cursor w }).onBus
    fun b => b.advanceCursor w

/-- R268: one word from the owner's cache data to memory. A flush's address is a block base. -/
def flushWord (s : State) : State :=
  let w := (s.core s.bus.origid).cache.word (addrIndex s.bus.addr) s.bus.cursor
  { s with
    mem := s.mem.write (s.bus.addr + BitVec.ofNat Config.addrBits s.bus.cursor).toNat w
    bus := s.bus.advanceCursor w }

/-- R269: the state of the filled line of a Read. -/
def filledState (shared : Bool) : Mesi := if shared then .shared else .exclusive

/-- R269 to R273: finalize a Read or ReadExclusive: the line takes state and tag, the requester's mailbox completes, the
bus is free and the requester recorded as last granted. -/
def finalizeFill (s : State) (m : Mesi) : State :=
  (s.onCore s.bus.origid fun k =>
    { k with
      cache := k.cache.setLine (addrIndex s.bus.addr) { tag := addrTag s.bus.addr, state := m }
      mbox := k.mbox.complete }).onBus
    fun b => { b with busy := false, cursor := 0, lastGranted := b.origid }

/-- R271, R273: finalize a Flush: the drained line takes the deferred post-flush state; no mailbox is touched and
`last_granted` stays. -/
def finalizeFlush (s : State) : State :=
  (s.setLineState s.bus.origid (addrIndex s.bus.addr) s.bus.postFlush).onBus
    fun b => { b with busy := false, cursor := 0, postFlush := .invalid }

/-- R267 to R271: the transfer step, with finalize in the step of the last word (R256). -/
def transferStep (s : State) : Host.Outcome State Fault Refusal :=
  match s.bus.cmd with
  | .read => .next (if lastWord s.bus then finalizeFill (fillWord s) (filledState s.bus.shared) else fillWord s)
  | .readExclusive => .next (if lastWord s.bus then finalizeFill (fillWord s) .modified else fillWord s)
  | .flush => .next (if lastWord s.bus then finalizeFlush (flushWord s) else flushWord s)
  | .none => .fault .busyWithoutCommand

/-- R256: one controller step. -/
def busStep (s : State) : Host.Outcome State Fault Refusal :=
  if s.bus.busy then
    if 0 < s.bus.cooldown then .next (cooldownStep s) else transferStep s
  else idleStep s

end Sys2Proof.Machine
end

