-- ==== Sys2Proof/Machine/Arith.lean ====
section
/-!
DEFINITION. The arithmetic and logic instructions (40_alu.md): the `alu` function of each (R111 to R119) and its
meaning. All nine have the stages of the common rule R110; none writes a flag or raises an exception.
-/

namespace Sys2Proof.Machine

/-- R111: `(a + b) mod 2^32`. -/
def aluAdd (a b : Word) : Word := a + b

/-- R112: `(a - b) mod 2^32`. -/
def aluSub (a b : Word) : Word := a - b

/-- R113: bitwise AND. -/
def aluAnd (a b : Word) : Word := a &&& b

/-- R114: bitwise OR. -/
def aluOr (a b : Word) : Word := a ||| b

/-- R115: bitwise XOR. -/
def aluXor (a b : Word) : Word := a ^^^ b

/-- R116: `(a * b) mod 2^32`, the low word of the product. -/
def aluMul (a b : Word) : Word := a * b

/-- R117: shift left, zeros enter at bit 0. -/
def aluSll (a b : Word) : Word := a <<< shamt b

/-- R118: shift right, copies of bit 31 enter at bit 31. -/
def aluSra (a b : Word) : Word := a.sshiftRight (shamt b)

/-- R119: shift right, zeros enter at bit 31. -/
def aluSrl (a b : Word) : Word := a >>> shamt b

/-- `add` (R110, R111). -/
def execAdd (rd rs rt : RegNum) (imm : Word) (s : State) : Host.Outcome State Fault Refusal :=
  .next (s.onFocus (aluStages aluAdd rd rs rt imm))

/-- `sub` (R110, R112). -/
def execSub (rd rs rt : RegNum) (imm : Word) (s : State) : Host.Outcome State Fault Refusal :=
  .next (s.onFocus (aluStages aluSub rd rs rt imm))

/-- `and` (R110, R113). -/
def execAnd (rd rs rt : RegNum) (imm : Word) (s : State) : Host.Outcome State Fault Refusal :=
  .next (s.onFocus (aluStages aluAnd rd rs rt imm))

/-- `or` (R110, R114). -/
def execOr (rd rs rt : RegNum) (imm : Word) (s : State) : Host.Outcome State Fault Refusal :=
  .next (s.onFocus (aluStages aluOr rd rs rt imm))

/-- `xor` (R110, R115). -/
def execXor (rd rs rt : RegNum) (imm : Word) (s : State) : Host.Outcome State Fault Refusal :=
  .next (s.onFocus (aluStages aluXor rd rs rt imm))

/-- `mul` (R110, R116). -/
def execMul (rd rs rt : RegNum) (imm : Word) (s : State) : Host.Outcome State Fault Refusal :=
  .next (s.onFocus (aluStages aluMul rd rs rt imm))

/-- `sll` (R110, R117). -/
def execSll (rd rs rt : RegNum) (imm : Word) (s : State) : Host.Outcome State Fault Refusal :=
  .next (s.onFocus (aluStages aluSll rd rs rt imm))

/-- `sra` (R110, R118). -/
def execSra (rd rs rt : RegNum) (imm : Word) (s : State) : Host.Outcome State Fault Refusal :=
  .next (s.onFocus (aluStages aluSra rd rs rt imm))

/-- `srl` (R110, R119). -/
def execSrl (rd rs rt : RegNum) (imm : Word) (s : State) : Host.Outcome State Fault Refusal :=
  .next (s.onFocus (aluStages aluSrl rd rs rt imm))

end Sys2Proof.Machine
end

