-- ==== Sys2Proof/Machine/Branch.lean ====
section
/-!
DEFINITION. The conditional branches and jump-and-link (41_branch_jump.md). Control transfer is resolved in decode and
has one delay slot (R130): decode drives the redirect, fetch applies it after the delay slot is fetched (R197).
-/

namespace Sys2Proof.Machine

/-- `beq` (R131). -/
def execBeq (rd rs rt : RegNum) (imm : Word) (s : State) : Host.Outcome State Fault Refusal :=
  .next (s.onFocus (branchStages takenBeq rd rs rt imm))

/-- `bne` (R132). -/
def execBne (rd rs rt : RegNum) (imm : Word) (s : State) : Host.Outcome State Fault Refusal :=
  .next (s.onFocus (branchStages takenBne rd rs rt imm))

/-- `blt` (R133). -/
def execBlt (rd rs rt : RegNum) (imm : Word) (s : State) : Host.Outcome State Fault Refusal :=
  .next (s.onFocus (branchStages takenBlt rd rs rt imm))

/-- `bgt` (R134). -/
def execBgt (rd rs rt : RegNum) (imm : Word) (s : State) : Host.Outcome State Fault Refusal :=
  .next (s.onFocus (branchStages takenBgt rd rs rt imm))

/-- `ble` (R135). -/
def execBle (rd rs rt : RegNum) (imm : Word) (s : State) : Host.Outcome State Fault Refusal :=
  .next (s.onFocus (branchStages takenBle rd rs rt imm))

/-- `bge` (R136). -/
def execBge (rd rs rt : RegNum) (imm : Word) (s : State) : Host.Outcome State Fault Refusal :=
  .next (s.onFocus (branchStages takenBge rd rs rt imm))

/-- The five stages of `jal` (R137): an unconditional redirect in decode, the link value in execute, a write of register
15 in writeback. -/
def jalStages (rd rs rt : RegNum) (imm : Word) (st : Stage) (k : Core) : Core :=
  match st with
  | .fetch => fetchStage k
  | .decode => decodeStage [rs, rt, rd] (resolve (fun _ _ => true) rd rs rt imm) k
  | .execute => executeLink k
  | .memory => passMemory k
  | .writeback => writeback 15 k

/-- `jal` (R137). -/
def execJal (rd rs rt : RegNum) (imm : Word) (s : State) : Host.Outcome State Fault Refusal :=
  .next (s.onFocus (jalStages rd rs rt imm))

end Sys2Proof.Machine
end

