-- ==== Sys2Proof/Machine/LoadStore.lean ====
section
/-!
DEFINITION. Load word and store word (42_load_store.md): the effective address in execute (R150, R186), the access in
the memory stage (R190 to R192), through the core's own cache (R68).
-/

namespace Sys2Proof.Machine

/-- The five stages of `lw` (R151). -/
def lwStages (rd rs rt : RegNum) (imm : Word) (st : Stage) (k : Core) : Core :=
  match st with
  | .fetch => fetchStage k
  | .decode => decodeStage [rs, rt] id k
  | .execute => executeAddress rs rt imm k
  | .memory => loadStage k
  | .writeback => writeback rd k

/-- `lw` (R151). -/
def execLw (rd rs rt : RegNum) (imm : Word) (s : State) : Host.Outcome State Fault Refusal :=
  .next (s.onFocus (lwStages rd rs rt imm))

/-- The five stages of `sw` (R152); the data operand `rd` is read in the memory stage. -/
def swStages (rd rs rt : RegNum) (imm : Word) (st : Stage) (k : Core) : Core :=
  match st with
  | .fetch => fetchStage k
  | .decode => decodeStage [rs, rt, rd] id k
  | .execute => executeAddress rs rt imm k
  | .memory => storeStage (opval k rd imm) k
  | .writeback => retire k

/-- `sw` (R152). -/
def execSw (rd rs rt : RegNum) (imm : Word) (s : State) : Host.Outcome State Fault Refusal :=
  .next (s.onFocus (swStages rd rs rt imm))

end Sys2Proof.Machine
end

