-- ==== Sys2Proof/Machine/System.lean ====
section
/-!
DEFINITION. HALT and the unknown opcodes (43_halt_unknown.md). There is no other system instruction (R162), no exception
and no privilege (R320, R326).
-/

namespace Sys2Proof.Machine

/-- The five stages of `halt` (R160): the stop-fetch signal in decode (R185), the terminal halted state in writeback
(R196). -/
def haltStages (rs rt : RegNum) (st : Stage) (k : Core) : Core :=
  match st with
  | .fetch => fetchStage k
  | .decode => decodeStage [rs, rt] Core.setHaltNow k
  | .execute => executeNothing k
  | .memory => passMemory k
  | .writeback => (retire k).setHaltWb

/-- `halt` (R160). -/
def execHalt (_rd rs rt : RegNum) (_imm : Word) (s : State) : Host.Outcome State Fault Refusal :=
  .next (s.onFocus (haltStages rs rt))

/-- A word with an unknown opcode (R95, R161): an active instruction that reads and writes nothing, takes part in the
hazard check and is counted as retired. -/
def runUnknown (raw : Word) (s : State) : Host.Outcome State Fault Refusal :=
  .next (s.onFocus (idleStages (decodeRecord raw).rs (decodeRecord raw).rt))

/-- A bubble in the slot under evaluation. -/
def runBubble (s : State) : Host.Outcome State Fault Refusal := .next (s.onFocus bubbleStages)

end Sys2Proof.Machine
end

