-- ==== Sys2Proof/Machine/Dispatch.lean ====
section
/-!
DEFINITION. The dispatch: one arm per instruction, each a direct call of its meaning. `exec i s` is what instruction `i`
does in the stage of the core that `s.focus` names.
-/

namespace Sys2Proof.Machine

/-- What an instruction does in the stage under evaluation. -/
def exec (i : Instr) (s : State) : Host.Outcome State Fault Refusal :=
  match i with
  | .add rd rs rt imm => Sys2Proof.Machine.execAdd rd rs rt imm s
  | .sub rd rs rt imm => Sys2Proof.Machine.execSub rd rs rt imm s
  | .and rd rs rt imm => Sys2Proof.Machine.execAnd rd rs rt imm s
  | .or rd rs rt imm => Sys2Proof.Machine.execOr rd rs rt imm s
  | .xor rd rs rt imm => Sys2Proof.Machine.execXor rd rs rt imm s
  | .mul rd rs rt imm => Sys2Proof.Machine.execMul rd rs rt imm s
  | .sll rd rs rt imm => Sys2Proof.Machine.execSll rd rs rt imm s
  | .sra rd rs rt imm => Sys2Proof.Machine.execSra rd rs rt imm s
  | .srl rd rs rt imm => Sys2Proof.Machine.execSrl rd rs rt imm s
  | .beq rd rs rt imm => Sys2Proof.Machine.execBeq rd rs rt imm s
  | .bne rd rs rt imm => Sys2Proof.Machine.execBne rd rs rt imm s
  | .blt rd rs rt imm => Sys2Proof.Machine.execBlt rd rs rt imm s
  | .bgt rd rs rt imm => Sys2Proof.Machine.execBgt rd rs rt imm s
  | .ble rd rs rt imm => Sys2Proof.Machine.execBle rd rs rt imm s
  | .bge rd rs rt imm => Sys2Proof.Machine.execBge rd rs rt imm s
  | .jal rd rs rt imm => Sys2Proof.Machine.execJal rd rs rt imm s
  | .lw rd rs rt imm => Sys2Proof.Machine.execLw rd rs rt imm s
  | .sw rd rs rt imm => Sys2Proof.Machine.execSw rd rs rt imm s
  | .halt rd rs rt imm => Sys2Proof.Machine.execHalt rd rs rt imm s

end Sys2Proof.Machine
end

