-- ==== Sys2Proof/Machine/Cycle.lean ====
section
/-!
DEFINITION. One clock cycle (48_cycle.md rule R300): (a) every core's evaluation, (b) one step of the bus controller,
(d) the clock edge of every core and of the cycle number. Phase (c), the snapshot, is in Machine/Run.lean.
-/

namespace Sys2Proof.Machine

/-- The word of the instruction in a stage of a core: for fetch the word at the program counter (R195), for the other
stages the slot's word; none for a bubble. Each slot carries its raw word and is decoded on demand (R29, R172). -/
def stageWord (k : Core) : Stage → Option Word
  | .fetch => some (fetchWord k)
  | .decode => if k.slotID.active then some k.slotID.raw else none
  | .execute => if k.slotEX.active then some k.slotEX.raw else none
  | .memory => if k.slotMEM.active then some k.slotMEM.raw else none
  | .writeback => if k.slotWB.active then some k.slotWB.raw else none

/-- The evaluation of one stage of one core: `exec` of the instruction its word decodes to; a word with an unknown
opcode has the effect of rule R161. -/
def evalStage (f : Focus) (s : State) : Host.Outcome State Fault Refusal :=
  match stageWord (s.core f.core) f.stage with
  | none => runBubble (s.withFocus f)
  | some w =>
    match decode w with
    | .ok i => exec i (s.withFocus f)
    | .error _ => runUnknown w (s.withFocus f)

/-- The order of the stage evaluations of one core (R170, decision D12). -/
def stageOrder : List Stage := [.writeback, .memory, .execute, .decode, .fetch]

/-- All stage evaluations of a cycle, core by core in ascending id (R300 (a), R301). -/
def schedule : List Focus := allCores.flatMap fun c => stageOrder.map fun st => { core := c, stage := st }

/-- Evaluate the listed stages one after the other. -/
def evalStages : List Focus → State → Host.Outcome State Fault Refusal
  | [], s => .next s
  | f :: fs, s => andThen (evalStage f s) (evalStages fs)

/-- The state a cycle is evaluated from: no signal carried over from an earlier cycle (R31, R181). -/
def beginCycle (s : State) : State := s.onEveryCore Core.clearSignals

/-- R300 (a) and (b): the evaluation phase and the controller step; the state the snapshot of R306 sees. -/
def beforeEdge (s : State) : Host.Outcome State Fault Refusal :=
  andThen (evalStages schedule (beginCycle s)) busStep

/-- R300 (d): the clock edge of every core; the cycle number counts it (R49). -/
def endCycle (s : State) : State :=
  { s.onEveryCore clockEdge with cycle := s.cycle + 1, focus := Focus.rest }

/-- R300: one clock cycle. -/
def cycleStep (s : State) : Host.Outcome State Fault Refusal :=
  andThen (beforeEdge s) fun t => .next (endCycle t)

/-- Store a word where core `c` fetches next: its instruction memory at its program counter. -/
def State.placeAtPc (s : State) (c : CoreId) (w : Word) : State :=
  s.onCore c fun k => { k with imem := k.imem.write k.pc.toNat w }

end Sys2Proof.Machine
end

