-- ==== Sys2Proof/Machine/Step.lean ====
section
/-!
DEFINITION. The step of the machine is one clock cycle (00_scope.md rule R13: "the cycle is the unit of the model";
48_cycle.md rule R300). `State.withFetchWord` places a word where core 0 fetches in the next step.
-/

namespace Sys2Proof.Machine

/-- One step: one clock cycle (R13, R300). -/
def step (s : State) : Host.Outcome State Fault Refusal := cycleStep s

/-- The word of `nbits` bits `w`, placed where core 0's fetch stage reads in the next step (R195): instruction memory of
core 0 at its program counter. The next step fetches exactly it. -/
def State.withFetchWord (s : State) (nbits w : Nat) : State := s.placeAtPc 0 (BitVec.ofNat Config.xlen (w % 2 ^ nbits))

end Sys2Proof.Machine
end

