-- ==== Sys2Proof/Machine/Run.lean ====
section
/-!
DEFINITION. What the surroundings of the hardware see and do: the snapshot of a cycle (48_cycle.md rule R306,
47_bus_controller.md rule R277), the final observable state (R307), the end of a run (R304) and the driver with its
cycle cap (R305). Nothing here changes the machine.
-/

namespace Sys2Proof.Machine

/-- What a trace shows of one stage: the `pc` of an active slot, or a placeholder (R306). -/
def Slot.trace (S : Slot) : Option Pc := if S.active then some S.pc else none

/-- The snapshot of one core (R306): its five slots and its registers, of which `x[2..15]` are reported. -/
structure CoreSnapshot where
  fetch : Option Pc
  decode : Option Pc
  execute : Option Pc
  memory : Option Pc
  writeback : Option Pc
  regs : List Word
deriving DecidableEq, Repr

/-- The snapshot of a cycle (R306): the cycle number, the cores, and the bus wires (R277). -/
structure Snapshot where
  cycle : Nat
  cores : List CoreSnapshot
  origid : CoreId
  cmd : BusCmd
  addr : Addr
  data : Word
  shared : Bool
deriving DecidableEq, Repr

/-- The general registers, without the two reserved ones (R23, R307). -/
def Core.generalRegs (k : Core) : List Word := k.x.toList.drop 2

/-- R306, for one core. -/
def Core.snapshot (k : Core) : CoreSnapshot :=
  { fetch := k.slotIF.trace, decode := k.slotID.trace, execute := k.slotEX.trace, memory := k.slotMEM.trace,
    writeback := k.slotWB.trace, regs := k.generalRegs }

/-- R306: the snapshot, taken of the state between the controller step and the clock edge. -/
def State.snapshot (s : State) : Snapshot :=
  { cycle := s.cycle, cores := s.cores.toList.map Core.snapshot, origid := s.bus.origid, cmd := s.bus.cmd,
    addr := s.bus.addr, data := s.bus.data, shared := s.bus.shared }

/-- R300 (c): the snapshot of the cycle that starts in `s`; none where the cycle has no rule. -/
def observe (s : State) : Option Snapshot :=
  match beforeEdge s with
  | .next t => some t.snapshot
  | .fault _ => none
  | .refused _ => none

/-- R304: every core is halted; the run is over at the first clock edge after which this holds. -/
def State.finished (s : State) : Bool := s.cores.toList.all fun k => k.halted

/-- The final observable state of one core (R307). -/
structure CoreResult where
  regs : List Word
  data : List (List Word)
  ts : List TagState
  counters : Counters
deriving DecidableEq, Repr

/-- The final observable state (R307). -/
structure FinalState where
  mem : Memory
  cores : List CoreResult
deriving DecidableEq, Repr

/-- R307. -/
def State.final (s : State) : FinalState :=
  { mem := s.mem
    cores := s.cores.toList.map fun k =>
      { regs := k.generalRegs, data := k.cache.data.toList.map (fun b => b.toList), ts := k.cache.ts.toList,
        counters := k.counters } }

/-- How a driven run ends. -/
inductive RunEnd where
  /-- R304: every core halted; the final state. -/
  | finished (s : State)
  /-- R305: the cycle cap was reached first; no result is defined. -/
  | cutOff
  /-- A step stopped, where the spec has no rule. -/
  | stopped
deriving DecidableEq, Repr

/-- The external driver (R304, R305): advance cycles until every core is halted, at most `cap` of them. `CYCLE_CAP` is
OPEN (decision D34), so it is the argument. -/
def drive (cap : Nat) (s : State) : RunEnd :=
  match cap with
  | 0 => .cutOff
  | n + 1 =>
    match step s with
    | .next t => if t.finished then .finished t else drive n t
    | .fault _ => .stopped
    | .refused _ => .stopped

end Sys2Proof.Machine
end

