-- ==== Sys2Proof/Machine/Sequential.lean ====
section
/-!
DEFINITION. The instruction-level view of one core (41_branch_jump.md rule R139; the instruction rules of 40_alu.md to
43_halt_unknown.md): instructions executed one after another, with two address registers `pc` and `npc` and a flat data
memory. The machine is the cycle-level one; this is the abstraction its rules implement (R13), and statements compare
the two.
-/

namespace Sys2Proof.Machine

/-- The state of the instruction-level view of one core. -/
structure SeqState where
  x : Vector Word Config.regCount
  /-- The instruction being executed (R139). -/
  pc : Pc
  /-- The one after it (R139). -/
  npc : Pc
  /-- `halt` has ended the sequence. -/
  stopped : Bool
  /-- The words of the data space as this core sees them. -/
  mem : Memory
deriving DecidableEq, Repr

/-- An architectural register write, discarded for registers 0 and 1 (R10, R21, R22). -/
def writeReg (x : Vector Word Config.regCount) (d : RegNum) (v : Word) : Vector Word Config.regCount :=
  match writable d with
  | some d => x.set d v
  | none => x

/-- R139: go on to the next instruction. -/
def SeqState.advance (s : SeqState) : SeqState := { s with pc := s.npc, npc := s.npc + 1 }

/-- R139: a taken branch or a jump; the instruction at `npc` executes next, the target after it. -/
def SeqState.redirect (s : SeqState) (t : Pc) : SeqState := { s with pc := s.npc, npc := t }

/-- R110: an arithmetic or logic instruction. -/
def seqAlu (alu : Word → Word → Word) (rd rs rt : RegNum) (imm : Word) (s : SeqState) : SeqState :=
  { s.advance with x := writeReg s.x rd (alu (regOperand s.x rs imm) (regOperand s.x rt imm)) }

/-- R131: a conditional branch. -/
def seqBranch (cond : Word → Word → Bool) (rd rs rt : RegNum) (imm : Word) (s : SeqState) : SeqState :=
  if cond (regOperand s.x rs imm) (regOperand s.x rt imm) then s.redirect (branchTarget (regOperand s.x rd imm))
  else s.advance

/-- R150: the data word address of a load or store. -/
def seqAddress (rs rt : RegNum) (imm : Word) (s : SeqState) : Addr :=
  addrOfWord (regOperand s.x rs imm + regOperand s.x rt imm)

/-- The instruction-level effect of one instruction (R111 to R119, R131 to R137, R151, R152, R160). -/
def seqExec (i : Instr) (s : SeqState) : SeqState :=
  match i with
  | .add rd rs rt imm => seqAlu aluAdd rd rs rt imm s
  | .sub rd rs rt imm => seqAlu aluSub rd rs rt imm s
  | .and rd rs rt imm => seqAlu aluAnd rd rs rt imm s
  | .or rd rs rt imm => seqAlu aluOr rd rs rt imm s
  | .xor rd rs rt imm => seqAlu aluXor rd rs rt imm s
  | .mul rd rs rt imm => seqAlu aluMul rd rs rt imm s
  | .sll rd rs rt imm => seqAlu aluSll rd rs rt imm s
  | .sra rd rs rt imm => seqAlu aluSra rd rs rt imm s
  | .srl rd rs rt imm => seqAlu aluSrl rd rs rt imm s
  | .beq rd rs rt imm => seqBranch takenBeq rd rs rt imm s
  | .bne rd rs rt imm => seqBranch takenBne rd rs rt imm s
  | .blt rd rs rt imm => seqBranch takenBlt rd rs rt imm s
  | .bgt rd rs rt imm => seqBranch takenBgt rd rs rt imm s
  | .ble rd rs rt imm => seqBranch takenBle rd rs rt imm s
  | .bge rd rs rt imm => seqBranch takenBge rd rs rt imm s
  | .jal rd _ _ imm =>
    { s.redirect (branchTarget (regOperand s.x rd imm)) with x := writeReg s.x 15 (linkValue s.pc) }
  | .lw rd rs rt imm => { s.advance with x := writeReg s.x rd (s.mem.read (seqAddress rs rt imm s).toNat) }
  | .sw rd rs rt imm => { s.advance with mem := s.mem.write (seqAddress rs rt imm s).toNat (regOperand s.x rd imm) }
  | .halt _ _ _ _ => { s with stopped := true }

/-- One instruction of the sequence (R139): the word at `pc`; an unknown opcode has no effect (R161); nothing executes
after `halt` (R160). -/
def seqStep (imem : Memory) (s : SeqState) : SeqState :=
  if s.stopped then s
  else
    match decode (imem.read s.pc.toNat) with
    | .ok i => seqExec i s
    | .error _ => s.advance

/-- The start of the sequence: `pc = 0`, `npc = 1` (R139), registers 0 (R53). -/
def SeqState.start (mem : Memory) : SeqState :=
  { x := Vector.replicate Config.regCount 0, pc := 0, npc := 1, stopped := false, mem := mem }

end Sys2Proof.Machine
end

