-- ==== Sys2Proof/Safety.lean ====
section
/-!
DEFINITION. What counts as a safe state at the start of a cycle: the invariants the spec states of the pipeline
(44_pipeline.md rule R207), the mailboxes (46_mailbox.md rules R44, R245), the bus (10_state.md rule R47,
47_bus_controller.md rule R274) and the caches (20_memory.md rule R72), and the canonical form of the memories. `State.Inv` is
their conjunction, strengthened by what a proof that every step keeps it needs.
-/

namespace Sys2Proof.Machine

/-! ## One core -/

/-- The slot holds an instruction with opcode `n`. -/
abbrev Slot.holdsOp (S : Slot) (n : BitVec 8) : Prop := S.active = true ∧ (decodeRecord S.raw).op = n

/-- The slot holds a `halt` (R160). -/
abbrev Slot.holdsHalt (S : Slot) : Prop := S.holdsOp 20

/-- The slot holds a branch or a `jal` (R184). -/
abbrev Slot.holdsJump (S : Slot) : Prop :=
  S.active = true ∧ 9 ≤ (decodeRecord S.raw).op ∧ (decodeRecord S.raw).op ≤ 15

/-- R207 (a), R31: at the start of a cycle `IF` is a bubble, no register write is pending and no signal is driven. -/
abbrev Core.Quiet (k : Core) : Prop :=
  k.slotIF = Slot.bubble ∧ k.wrPending = false ∧ k.slotID.stall = false ∧ k.slotMEM.stall = false ∧ k.sig = Signals.none

/-- R207 (b): a pending redirect belongs to the branch or `jal` in decode. -/
abbrev Core.RedirectInv (k : Core) : Prop := k.redirectPending = true → k.slotID.holdsJump

/-- R207 (c), (d), (e): nothing younger than a decoded `halt` is in the pipeline, and a halted core is empty. -/
abbrev Core.HaltInv (k : Core) : Prop :=
  (k.stopFetch = true → k.slotID.active = true → k.slotID.holdsHalt) ∧
  (k.slotEX.holdsHalt → k.stopFetch = true ∧ k.slotID.active = false) ∧
  (k.slotMEM.holdsHalt → k.stopFetch = true ∧ k.slotID.active = false ∧ k.slotEX.active = false) ∧
  (k.slotWB.holdsHalt →
    k.stopFetch = true ∧ k.slotID.active = false ∧ k.slotEX.active = false ∧ k.slotMEM.active = false) ∧
  (k.halted = true →
    k.stopFetch = true ∧ k.slotID.active = false ∧ k.slotEX.active = false ∧ k.slotMEM.active = false ∧
      k.slotWB.active = false)

/-- R245: the request in the mailbox is the one the memory stage's load or store made. -/
abbrev Core.RequestInv (k : Core) : Prop :=
  k.slotMEM.active = true ∧ k.mbox.addr = addrOfWord k.slotMEM.result ∧
    (((decodeRecord k.slotMEM.raw).op = 16 ∧ k.mbox.cmd = .read) ∨
      ((decodeRecord k.slotMEM.raw).op = 17 ∧ k.mbox.cmd = .readExclusive))

/-- R44, R245, R194: the mailbox is empty, requested or completed; while it is not empty the memory stage holds the
load or store that made the request; once completed, the retry will hit. -/
abbrev Core.MailboxInv (c : CoreId) (k : Core) : Prop :=
  k.mbox.requester = c ∧
  ¬ (k.mbox.pending = true ∧ k.mbox.done = true) ∧
  (k.mbox.pending = true ∨ k.mbox.done = true → k.RequestInv) ∧
  (k.mbox.done = true → k.cache.hit k.mbox.addr = true ∧
    (k.mbox.cmd = .readExclusive → (k.cache.line (addrIndex k.mbox.addr)).state = .modified))

/-- Everything about one core. -/
structure Core.Inv (c : CoreId) (k : Core) : Prop where
  quiet : k.Quiet
  zero : k.x[0] = 0
  redirect : k.RedirectInv
  halt : k.HaltInv
  mailbox : k.MailboxInv c
  imem : Memory.wf Config.imemSize k.imem

/-! ## Bus and caches -/

/-- The line is held with ownership: `Modified` or `Exclusive`. -/
abbrev TagState.Owned (t : TagState) : Prop := t.state = .modified ∨ t.state = .exclusive

/-- R72 (a), R274 (c): if a cache holds a block `Modified` or `Exclusive`, every other cache's line for it is `Invalid`
or holds another tag. -/
abbrev State.Coherent (s : State) : Prop :=
  ∀ c d : CoreId, c ≠ d → ∀ i : LineIndex, (s.line c i).Owned →
    (s.line d i).state = .invalid ∨ (s.line d i).tag ≠ (s.line c i).tag

/-- R47: busy iff a command is in flight, with the counters in their ranges; the deferred post-flush state is `Invalid`
unless a flush is in flight (R271). -/
abbrev Bus.Inv (b : Bus) : Prop :=
  (b.busy = true → b.cmd ≠ .none) ∧
  (b.busy = false → b.cooldown = 0 ∧ b.cursor = 0) ∧
  b.cooldown ≤ Config.busLatency ∧
  (0 < b.cooldown → b.cursor = 0) ∧
  (b.cmd = .flush → b.cooldown = 0) ∧
  (b.postFlush = .invalid ∨ (b.postFlush = .shared ∧ b.busy = true ∧ b.cmd = .flush))

/-- While a Read or ReadExclusive is in flight: it is the requester's own pending request (R264, R272); the requester's
line holds no dirty block that the fill would overwrite (R259); no other cache owns the block, and none holds it at all
under a ReadExclusive, or under a Read without the shared signal (R260 to R263, R274 (e)). -/
abbrev State.FillInv (s : State) : Prop :=
  s.bus.busy = true → (s.bus.cmd = .read ∨ s.bus.cmd = .readExclusive) →
    (s.core s.bus.origid).mbox.pending = true ∧ (s.core s.bus.origid).mbox.addr = s.bus.addr ∧
    (s.core s.bus.origid).mbox.cmd = s.bus.cmd ∧
    mustEvict s s.bus.origid s.bus.addr = false ∧
    ∀ o : CoreId, o ≠ s.bus.origid → (s.core o).cache.holds s.bus.addr = true →
      s.bus.cmd = .read ∧ s.bus.shared = true ∧ (s.line o (addrIndex s.bus.addr)).state = .shared

/-- While a Flush is in flight: the owner's line is still `Modified` and holds the block being drained, whose base
address the bus carries (R261, R265). -/
abbrev State.FlushInv (s : State) : Prop :=
  s.bus.busy = true → s.bus.cmd = .flush →
    blockBase s.bus.addr = s.bus.addr ∧
    (s.line s.bus.origid (addrIndex s.bus.addr)).state = .modified ∧
    (s.line s.bus.origid (addrIndex s.bus.addr)).tag = addrTag s.bus.addr

/-- R304: every transaction is part of serving some core's request. -/
abbrev State.ServesSomeone (s : State) : Prop := s.bus.busy = true → ∃ c : CoreId, (s.core c).mbox.pending = true

/-- The invariant of the machine at the start of every cycle. -/
structure State.Inv (s : State) : Prop where
  cores : ∀ c : CoreId, (s.core c).Inv c
  bus : s.bus.Inv
  fill : s.FillInv
  flush : s.FlushInv
  serves : s.ServesSomeone
  coherent : s.Coherent
  mem : Memory.wf Config.memSize s.mem
  focus : s.focus = Focus.rest

/-! ## Terms of the statements -/

/-- Nothing but the core under evaluation differs (R301): the other cores, the bus, system memory, the cycle number and
the place of the evaluation are the same. -/
abbrev State.OnlyFocusCore (s t : State) : Prop :=
  (∀ d : CoreId, d ≠ s.focus.core → t.core d = s.core d) ∧ t.bus = s.bus ∧ t.mem = s.mem ∧ t.cycle = s.cycle ∧
    t.focus = s.focus

/-- `exec` of `i` answers a next state in which nothing but the core under evaluation differs, and that core is `k'`.
This is an instruction's result and its whole frame in one: every register, latch, slot, counter, cache word and mailbox
field that `k'` leaves as it was is unchanged. -/
abbrev Gives (i : Instr) (s : State) (k' : Core) : Prop :=
  ∃ t, exec i s = .next t ∧ s.OnlyFocusCore t ∧ t.focusCore = k'

/-- The core with one more retired instruction (R196) and no other change. -/
abbrev Core.retired (k : Core) : Core :=
  { k with counters := { k.counters with instructions := k.counters.instructions + 1 } }

/-- The core with one more retired instruction and the pending write of `v` to `d`, and no other change (R36, R196). -/
abbrev Core.retiredWriting (k : Core) (d : RegNum) (v : Word) : Core :=
  { k.retired with wrPending := true, wrDest := d, wrValue := v }

/-- The core after a fetch stage (R195, R197). Enabled, it holds the word at `pc` in `IF` and `pc` is to move to the next
word, or to the redirect target if a redirect is valid, which is consumed; suppressed, `pc` and the redirect are to stay.
Where R197 assigns the redirect target nothing, it keeps its value: the model's choice, log entry 19. -/
abbrev Core.afterFetch (k : Core) : Core :=
  let enabled := !k.slotMEM.stall && !k.slotID.stall && !k.stopFetch && !k.sig.haltNow && !k.halted
  let valid := k.redirectPending || k.sig.redirNow
  let target := if k.sig.redirNow then k.sig.redirTgtNow else k.redirectTarget
  if enabled then
    { k with
      slotIF := { active := true, pc := k.pc, raw := k.imem.read k.pc.toNat, result := 0, stall := false }
      sig := { k.sig with
        fetchEn := true
        pcNext := if valid then target else BitVec.ofNat Config.pcBits ((k.pc.toNat + 1) % Config.imemSize)
        redirectPendingNext := false
        redirectTargetNext := k.redirectTarget } }
  else
    { k with
      sig := { k.sig with
        fetchEn := false
        pcNext := k.pc
        redirectPendingNext := valid
        redirectTargetNext := target } }

/-- The memory stage will not stall on what it holds: a bubble or an instruction that is no load or store (R193). -/
abbrev Core.MemoryPasses (k : Core) : Prop :=
  k.slotMEM.active = true → (decodeRecord k.slotMEM.raw).op ≠ 16 ∧ (decodeRecord k.slotMEM.raw).op ≠ 17

/-- The stages behind decode are empty. -/
abbrev Core.DrainedBehindDecode (k : Core) : Prop :=
  k.slotEX.active = false ∧ k.slotMEM.active = false ∧ k.slotWB.active = false

/-- The controller is idle and serves core `r`'s request `c` for address `a` in this step (R258). -/
abbrev State.Selects (s : State) (r : CoreId) (c : BusCmd) (a : Addr) : Prop :=
  s.bus.busy = false ∧ arbitrate s = some r ∧ (s.core r).mbox.cmd = c ∧ (s.core r).mbox.addr = a ∧
    (c = .read ∨ c = .readExclusive)

/-- The core differs in its cache alone. -/
abbrev Core.OnlyCache (k k' : Core) : Prop := k' = { k with cache := k'.cache }

/-- The cache after line `i` became `t` and word `o` of its data became `v`, and no other line or word changed. -/
abbrev Cache.WithLineAndWord (c c' : Cache) (i : LineIndex) (t : TagState) (o : Offset) (v : Word) : Prop :=
  (∀ j, c'.line j = if j = i then t else c.line j) ∧
    ∀ j p, c'.word j p = if j = i ∧ p = o then v else c.word j p

end Sys2Proof.Machine
end

