-- ==== Sys2Proof/Certificates/Slice0/Obligations.lean ====
section
/-!
DEFINITION. The statements for the provers. Each says in its docstring which rule of the spec it formalises. Statements
about one instruction use `Gives`, which holds the result, the completion (exec answers a next state) and the frame in
one equation.
-/

open Sys2Proof Sys2Proof.Machine

/-! ## Encoding -/

/-- Decoding the word of a well-formed instruction gives the instruction back (30_encoding.md rules R91, R93, R99). -/
def Obligations.DecodeOfEncode : Prop :=
  ∀ i : Instr, i.wellFormed = true → decode (encode i) = .ok i

/-- A word that decodes to an instruction is that instruction's word, and the instruction is well formed: no bit of a
word is dropped, no two instructions share one. -/
def Obligations.EncodeOfDecode : Prop :=
  ∀ (w : Word) (i : Instr), decode w = .ok i → encode i = w ∧ i.wellFormed = true

/-- The decoder rejects exactly the words with an opcode that R93 lists as unknown: 18, 19 and 21..255. That it rejects
them, by their number, is the model's choice (log entry 13): R91 decodes every word and R95 calls no encoding illegal, and
the step runs such a word as R161 says. -/
def Obligations.DecodeRejectsExactlyUnknownOpcodes : Prop :=
  ∀ w : Word, decode w = .error (.unknownOpcode (w.extractLsb' 24 8)) ↔
    (w.toNat / 2 ^ 24 = 18 ∨ w.toNat / 2 ^ 24 = 19 ∨ 21 ≤ w.toNat / 2 ^ 24)

/-- R92: the immediate is bits 11..0 of the word with bit 11 copied into bits 31..12, a value in -2048 .. 2047. -/
def Obligations.ImmediateIsSignExtended : Prop :=
  ∀ w : Word,
    (∀ j, j < 12 → (decodeRecord w).imm.getLsbD j = w.getLsbD j) ∧
    (∀ j, 12 ≤ j → j < 32 → (decodeRecord w).imm.getLsbD j = w.getLsbD 11) ∧
    -2048 ≤ (decodeRecord w).imm.toInt ∧ (decodeRecord w).imm.toInt ≤ 2047

/-- Words written out from the encoding (95_test_vectors.md part 2) decode to their instructions. -/
def Obligations.SampleWordsDecode : Prop :=
  decode 0x00201005 = .ok (.add 2 0 1 5) ∧
  decode 0x0882101C = .ok (.srl 8 2 1 28) ∧
  decode 0x0E456FFF = .ok (.bge 4 5 6 0xFFFFFFFF) ∧
  decode 0x0F100005 = .ok (.jal 1 0 0 5) ∧
  decode 0x10321004 = .ok (.lw 3 2 1 4) ∧
  decode 0x11421004 = .ok (.sw 4 2 1 4) ∧
  decode 0x14ABCDEF = .ok (.halt 10 11 12 0xFFFFFDEF)

/-! ## The step and the dispatch -/

/-- A step runs the decoded instruction. When the word of a stage of a core (for fetch: the word at the program counter)
decodes to `i`, the step is: the stage evaluations before it in the schedule, which leave the core's registers and
program counter as they were and stop on nothing; `exec` of `i` at that stage; the evaluations after it; the controller
step; the clock edge (R170, R300). That `exec` is one stage of a cycle is the model's choice, log entry 3. -/
def Obligations.StepRunsTheDecodedInstruction : Prop :=
  ∀ (s : State) (f : Focus) (w : Word) (i : Instr),
    stageWord (s.core f.core) f.stage = some w → decode w = .ok i →
    ∃ (n : Nat) (p : State),
      schedule[n]? = some f ∧ evalStages (schedule.take n) (beginCycle s) = .next p ∧
      (p.core f.core).x = (s.core f.core).x ∧ (p.core f.core).pc = (s.core f.core).pc ∧
      step s = andThen (exec i (p.withFocus f)) fun q =>
        andThen (evalStages (schedule.drop (n + 1)) q) fun r =>
          andThen (busStep r) fun t => .next (endCycle t)

/-- R161: a word with an unknown opcode runs, in every stage, without reading or writing a register, the cache, the
mailbox or a latch: it is fetched as every word is (R195, R197); in decode it can only raise the stall flag, by the hazard
check on its `rs` and `rt`; in writeback it is counted as retired. Where R197 assigns the redirect target nothing, it keeps
its value: the model's choice, log entry 19. -/
def Obligations.UnknownOpcodeIsNoOp : Prop :=
  ∀ (w : Word) (e : DecodeError) (f : Focus) (s : State),
    decode w = .error e → stageWord (s.core f.core) f.stage = some w →
    ∃ t, evalStage f s = .next t ∧ (s.withFocus f).OnlyFocusCore t ∧
      t.focusCore =
        match f.stage with
        | .fetch => (s.core f.core).afterFetch
        | .decode =>
          if hazard (s.core f.core) [(decodeRecord w).rs, (decodeRecord w).rt] then (s.core f.core).setDecStall true
          else s.core f.core
        | .execute => (s.core f.core).setExResult 0
        | .memory => (s.core f.core).setMemResult (s.core f.core).slotMEM.result
        | .writeback => (s.core f.core).retired

/-- R24: the operand read gives 0 for register 0, the reading instruction's own immediate for register 1, and the content
of any other register at the start of the cycle; and no instruction, in any stage, reads the cells of registers 0 and 1:
changing them changes nothing else of what it does. -/
def Obligations.NoInstructionReadsReservedCells : Prop :=
  (∀ (k : Core) (imm : Word),
    opval k 0 imm = 0 ∧ opval k 1 imm = imm ∧ ∀ n : RegNum, 2 ≤ n.val → opval k n imm = k.x[n]) ∧
  ∀ (i : Instr) (s : State) (v w : Word),
    let poke : State → State := fun s => s.onCore s.focus.core fun k => { k with x := (k.x.set 0 v).set 1 w }
    ∃ t, exec i s = .next t ∧ exec i (poke s) = .next (poke t)

/-- R301: the evaluation phase of core `c` depends on core `c` alone, and touches neither the bus nor system memory. -/
def Obligations.CoresAreIndependentInEvaluation : Prop :=
  ∀ (s s' u u' : State) (c : CoreId),
    s.core c = s'.core c → evalStages schedule (beginCycle s) = .next u → evalStages schedule (beginCycle s') = .next u' →
    u.core c = u'.core c ∧ u.bus = s.bus ∧ u.mem = s.mem

/-! ## Arithmetic and logic -/

/-- R111, R112, R116: the execute stages of `add`, `sub` and `mul` drive `(a + b) mod 2^32`, `(a - b) mod 2^32` and the low
32 bits of the product, `a` the first source and `b` the second, and change nothing else. -/
def Obligations.AddSubMulResults : Prop :=
  ∀ (rd rs rt : RegNum) (imm : Word) (s : State), s.focus.stage = .execute →
    let a := opval s.focusCore rs imm
    let b := opval s.focusCore rt imm
    Gives (.add rd rs rt imm) s (s.focusCore.setExResult (BitVec.ofNat 32 ((a.toNat + b.toNat) % 2 ^ 32))) ∧
    Gives (.sub rd rs rt imm) s (s.focusCore.setExResult (BitVec.ofInt 32 ((a.toInt - b.toInt) % 2 ^ 32))) ∧
    Gives (.mul rd rs rt imm) s (s.focusCore.setExResult (BitVec.ofInt 32 ((a.toInt * b.toInt) % 2 ^ 32)))

/-- R113, R114, R115: the execute stages of `and`, `or`, `xor` drive the bitwise result over 32 bits, and change nothing
else. -/
def Obligations.BitwiseResults : Prop :=
  ∀ (rd rs rt : RegNum) (imm : Word) (s : State), s.focus.stage = .execute →
    (∃ v, Gives (.and rd rs rt imm) s (s.focusCore.setExResult v) ∧
      ∀ j, j < 32 → v.getLsbD j = ((opval s.focusCore rs imm).getLsbD j && (opval s.focusCore rt imm).getLsbD j)) ∧
    (∃ v, Gives (.or rd rs rt imm) s (s.focusCore.setExResult v) ∧
      ∀ j, j < 32 → v.getLsbD j = ((opval s.focusCore rs imm).getLsbD j || (opval s.focusCore rt imm).getLsbD j)) ∧
    (∃ v, Gives (.xor rd rs rt imm) s (s.focusCore.setExResult v) ∧
      ∀ j, j < 32 → v.getLsbD j = ((opval s.focusCore rs imm).getLsbD j ^^ (opval s.focusCore rt imm).getLsbD j))

/-- R117, R118, R119: the execute stages of `sll`, `sra` and `srl` drive `(a << sh) mod 2^32`, `floor(signed(a) / 2^sh)` and
`floor(unsigned(a) / 2^sh)`, `a` the first source and `sh` the second modulo 32, and change nothing else. -/
def Obligations.ShiftResults : Prop :=
  ∀ (rd rs rt : RegNum) (imm : Word) (s : State), s.focus.stage = .execute →
    let a := opval s.focusCore rs imm
    let sh := (opval s.focusCore rt imm).toNat % 32
    Gives (.sll rd rs rt imm) s (s.focusCore.setExResult (BitVec.ofNat 32 (a.toNat * 2 ^ sh % 2 ^ 32))) ∧
    (∃ v : Word, Gives (.sra rd rs rt imm) s (s.focusCore.setExResult v) ∧ v.toInt = Int.fdiv a.toInt (2 ^ sh)) ∧
    (∃ v : Word, Gives (.srl rd rs rt imm) s (s.focusCore.setExResult v) ∧ v.toNat = a.toNat / 2 ^ sh)

/-- R21, R22, R110, R151, R193, R196: in writeback the nine arithmetic and logic instructions and `lw` retire and latch the
write of the slot's result to `rd`, which is discarded for `rd` 0 and 1; the arithmetic and logic instructions pass the
memory stage with their result unchanged. -/
def Obligations.ProducersWriteTheirDestination : Prop :=
  ∀ (i : Instr) (s : State), i.op ≤ 8 ∨ i.op = 16 →
    (s.focus.stage = .writeback →
      Gives i s (if i.rd = 0 ∨ i.rd = 1 then s.focusCore.retired
        else s.focusCore.retiredWriting i.rd s.focusCore.slotWB.result)) ∧
    (s.focus.stage = .memory → i.op ≠ 16 → Gives i s (s.focusCore.setMemResult s.focusCore.slotMEM.result))

/-! ## Branches, jump-and-link, halt -/

/-- R131 to R136, R138, R184: without a hazard the decode stage of a branch drives the redirect: taken by its condition,
two's-complement signed for the four ordered ones, to the low 10 bits of its `rd` operand; and it changes nothing else. -/
def Obligations.BranchesResolveInDecode : Prop :=
  ∀ (rd rs rt : RegNum) (imm : Word) (s : State),
    s.focus.stage = .decode → hazard s.focusCore [rs, rt, rd] = false →
    let a := opval s.focusCore rs imm
    let b := opval s.focusCore rt imm
    let T : Pc := BitVec.ofNat 10 ((opval s.focusCore rd imm).toNat % 1024)
    Gives (.beq rd rs rt imm) s (s.focusCore.setRedirect (decide (a.toNat = b.toNat)) T) ∧
    Gives (.bne rd rs rt imm) s (s.focusCore.setRedirect (decide (a.toNat ≠ b.toNat)) T) ∧
    Gives (.blt rd rs rt imm) s (s.focusCore.setRedirect (decide (a.toInt < b.toInt)) T) ∧
    Gives (.bgt rd rs rt imm) s (s.focusCore.setRedirect (decide (b.toInt < a.toInt)) T) ∧
    Gives (.ble rd rs rt imm) s (s.focusCore.setRedirect (decide (a.toInt < b.toInt ∨ a = b)) T) ∧
    Gives (.bge rd rs rt imm) s (s.focusCore.setRedirect (decide (b.toInt < a.toInt ∨ a = b)) T)

/-- R137: `jal` redirects unconditionally in decode; in execute it computes the next sequential PC of its own slot,
wrapping at the instruction-memory size; the memory stage passes it on (R193); in writeback it latches the write of register
15. -/
def Obligations.JalLinksAndJumps : Prop :=
  ∀ (rd rs rt : RegNum) (imm : Word) (s : State),
    (s.focus.stage = .decode → hazard s.focusCore [rs, rt, rd] = false →
      Gives (.jal rd rs rt imm) s (s.focusCore.setRedirect true
        (BitVec.ofNat 10 ((opval s.focusCore rd imm).toNat % 1024)))) ∧
    (s.focus.stage = .execute →
      Gives (.jal rd rs rt imm) s (s.focusCore.setExResult
        (BitVec.ofNat 32 ((s.focusCore.slotEX.pc.toNat + 1) % 1024)))) ∧
    (s.focus.stage = .memory → Gives (.jal rd rs rt imm) s (s.focusCore.setMemResult s.focusCore.slotMEM.result)) ∧
    (s.focus.stage = .writeback →
      Gives (.jal rd rs rt imm) s (s.focusCore.retiredWriting 15 s.focusCore.slotWB.result))

/-- R160, R185, R196: without a hazard `halt` drives the stop-fetch signal in decode, does nothing in execute and memory,
and in writeback retires and drives the terminal halted signal. -/
def Obligations.HaltStopsTheCore : Prop :=
  ∀ (rd rs rt : RegNum) (imm : Word) (s : State),
    (s.focus.stage = .decode → hazard s.focusCore [rs, rt] = false →
      Gives (.halt rd rs rt imm) s s.focusCore.setHaltNow) ∧
    (s.focus.stage = .execute → Gives (.halt rd rs rt imm) s (s.focusCore.setExResult 0)) ∧
    (s.focus.stage = .memory → Gives (.halt rd rs rt imm) s (s.focusCore.setMemResult s.focusCore.slotMEM.result)) ∧
    (s.focus.stage = .writeback → Gives (.halt rd rs rt imm) s s.focusCore.retired.setHaltWb)

/-- R94, R173, R186, R193, R196: branches and `sw` retire in writeback and write no register; branches pass the memory
stage, and in execute they drive 0, which nothing uses, and change nothing else. -/
def Obligations.BranchesAndStoresWriteNoRegister : Prop :=
  ∀ (i : Instr) (s : State), (9 ≤ i.op ∧ i.op ≤ 14) ∨ i.op = 17 →
    (s.focus.stage = .writeback → Gives i s s.focusCore.retired) ∧
    (s.focus.stage = .memory → i.op ≠ 17 → Gives i s (s.focusCore.setMemResult s.focusCore.slotMEM.result)) ∧
    (s.focus.stage = .execute → i.op ≠ 17 → Gives i s (s.focusCore.setExResult 0))

/-! ## Hazards and fetch -/

/-- R173, R180: the hazard condition. An instruction in execute, memory or writeback will write a register of `srcs`: its
`rd` for arithmetic and load, register 15 for jump-and-link, registers 0 and 1 excluded. -/
def Obligations.HazardCondition : Prop :=
  ∀ (k : Core) (srcs : List RegNum),
    hazard k srcs = true ↔
      ∃ S ∈ [k.slotEX, k.slotMEM, k.slotWB], S.active = true ∧ ∃ d ∈ srcs, d ≠ 0 ∧ d ≠ 1 ∧
        ((((decodeRecord S.raw).op ≤ 8 ∨ (decodeRecord S.raw).op = 16) ∧ d = (decodeRecord S.raw).rd) ∨
          ((decodeRecord S.raw).op = 15 ∧ d = 15))

/-- R174, R182, R183: the decode stage of every instruction. It is checked for a hazard on `rs` and `rt`, and the branches,
`jal` and `sw` on `rd` as well. With a hazard it raises the stall flag and performs none of its decode actions; without one,
arithmetic and logic instructions, loads and stores do nothing in decode. The registers R174 gives a word, known or
unknown, are the same. -/
def Obligations.DecodeStallsOnHazard : Prop :=
  (∀ (i : Instr) (s : State), s.focus.stage = .decode →
    let srcs := if (9 ≤ i.op ∧ i.op ≤ 15) ∨ i.op = 17 then [i.rs, i.rt, i.rd] else [i.rs, i.rt]
    (hazard s.focusCore srcs = true → Gives i s (s.focusCore.setDecStall true)) ∧
    (hazard s.focusCore srcs = false → i.op ≤ 8 ∨ i.op = 16 ∨ i.op = 17 → Gives i s s.focusCore)) ∧
  ∀ (w : Word) (n : RegNum), n ∈ recordSrcs (decodeRecord w) ↔
    n = (decodeRecord w).rs ∨ n = (decodeRecord w).rt ∨
      (n = (decodeRecord w).rd ∧ (9 ≤ (w.toNat / 2 ^ 24) ∧ (w.toNat / 2 ^ 24) ≤ 15 ∨ w.toNat / 2 ^ 24 = 17))

/-- R180, R181: in every cycle `dec_stall` is the hazard condition on the instruction in decode, computed from the slots
at the start of the cycle; 0 for a bubble. -/
def Obligations.DecodeStallSignal : Prop :=
  ∀ (s u : State) (c : CoreId), evalStages schedule (beginCycle s) = .next u →
    ((u.core c).slotID.stall = true ↔
      (s.core c).slotID.active = true ∧
        hazard (s.core c) (recordSrcs (decodeRecord (s.core c).slotID.raw)) = true)

/-- R195, R197: the fetch stage, the same for every instruction. Enabled, it fills the `IF` slot from the word at `pc` and
moves `pc` to the next word, or to the redirect target if a redirect is valid, which it consumes; suppressed, it keeps
`pc` and the redirect (`Core.afterFetch` spells the core out). Where R197 assigns the redirect target nothing, it keeps its
value: the model's choice, log entry 19. -/
def Obligations.FetchStage : Prop :=
  ∀ (i : Instr) (s : State), s.focus.stage = .fetch → Gives i s s.focusCore.afterFetch

/-! ## Load and store -/

/-- R150, R186: the execute stage of `lw` and `sw` drives the low 20 bits of the 32-bit sum of the two address operands,
zero-extended, and changes nothing else. -/
def Obligations.LoadStoreAddress : Prop :=
  ∀ (rd rs rt : RegNum) (imm : Word) (s : State), s.focus.stage = .execute →
    let ea := ((opval s.focusCore rs imm).toNat + (opval s.focusCore rt imm).toNat) % 2 ^ 32
    Gives (.lw rd rs rt imm) s (s.focusCore.setExResult (BitVec.ofNat 32 (ea % 2 ^ 20))) ∧
    Gives (.sw rd rs rt imm) s (s.focusCore.setExResult (BitVec.ofNat 32 (ea % 2 ^ 20)))

/-- R190, R221, R222: a load whose line is valid with the matching tag, with no request outstanding, returns the cache's
word, clears `done`, counts a hit unless it is a retry, does not stall, and changes nothing else: no cache word, no line,
no memory word. -/
def Obligations.LoadHit : Prop :=
  ∀ (rd rs rt : RegNum) (imm : Word) (s : State), s.focus.stage = .memory →
    let k := s.focusCore
    let a := addrOfWord k.slotMEM.result
    k.mbox.pending = false → (k.cache.line (addrIndex a)).state ≠ .invalid →
    (k.cache.line (addrIndex a)).tag = addrTag a →
    Gives (.lw rd rs rt imm) s { k with
      mbox := { k.mbox with done := false }
      counters := { k.counters with readHit := k.counters.readHit + if k.mbox.done then 0 else 1 }
      sig := { k.sig with memResult := k.cache.word (addrIndex a) (addrOffset a) } }

/-- R190, R241: a load that misses, with no request outstanding, issues a Read for its address and stalls. -/
def Obligations.LoadMiss : Prop :=
  ∀ (rd rs rt : RegNum) (imm : Word) (s : State), s.focus.stage = .memory →
    let k := s.focusCore
    let a := addrOfWord k.slotMEM.result
    k.mbox.pending = false →
    ((k.cache.line (addrIndex a)).state = .invalid ∨ (k.cache.line (addrIndex a)).tag ≠ addrTag a) →
    Gives (.lw rd rs rt imm) s { k with
      mbox := { k.mbox with addr := a, cmd := .read, pending := true, done := false }
      counters := { k.counters with readMiss := k.counters.readMiss + if k.mbox.done then 0 else 1 }
      slotMEM := { k.slotMEM with stall := true } }

/-- R191, R223 (1): a store whose line is `Modified` or `Exclusive` with the matching tag, with no request outstanding,
writes the `rd` operand to the one word at its address in the core's own cache and leaves the line `Modified`; every other
word and line of the cache, and system memory, is unchanged. -/
def Obligations.StoreHit : Prop :=
  ∀ (rd rs rt : RegNum) (imm : Word) (s : State), s.focus.stage = .memory →
    let k := s.focusCore
    let a := addrOfWord k.slotMEM.result
    k.mbox.pending = false → (k.cache.line (addrIndex a)).tag = addrTag a → (k.cache.line (addrIndex a)).Owned →
    ∃ c' : Cache,
      k.cache.WithLineAndWord c' (addrIndex a) { tag := addrTag a, state := .modified } (addrOffset a) (opval k rd imm) ∧
      Gives (.sw rd rs rt imm) s { k with
        cache := c'
        mbox := { k.mbox with done := false }
        counters := { k.counters with writeHit := k.counters.writeHit + if k.mbox.done then 0 else 1 }
        sig := { k.sig with memResult := k.slotMEM.result } }

/-- R191, R223 (2), (3), R241: a store whose line is `Shared`, `Invalid` or holds another tag, with no request
outstanding, writes nothing, issues a ReadExclusive for its address and stalls. -/
def Obligations.StoreFailsWithoutOwnership : Prop :=
  ∀ (rd rs rt : RegNum) (imm : Word) (s : State), s.focus.stage = .memory →
    let k := s.focusCore
    let a := addrOfWord k.slotMEM.result
    k.mbox.pending = false →
    ((k.cache.line (addrIndex a)).state = .shared ∨ (k.cache.line (addrIndex a)).state = .invalid ∨
      (k.cache.line (addrIndex a)).tag ≠ addrTag a) →
    Gives (.sw rd rs rt imm) s { k with
      mbox := { k.mbox with addr := a, cmd := .readExclusive, pending := true, done := false }
      counters := { k.counters with writeMiss := k.counters.writeMiss + if k.mbox.done then 0 else 1 }
      slotMEM := { k.slotMEM with stall := true } }

/-- R192: while its request is pending a load or store stalls and does nothing else. -/
def Obligations.WaitingLoadOrStoreOnlyStalls : Prop :=
  ∀ (i : Instr) (s : State), i.op = 16 ∨ i.op = 17 → s.focus.stage = .memory → s.focusCore.mbox.pending = true →
    Gives i s (s.focusCore.setMemStall true)

/-! ## The clock edge -/

/-- R200: with memory stalled nothing advances, writeback becomes a bubble, and the commit and the latch updates still
take place. R200 lets `MEM` and `ID` keep their content; that the edge clears their stall flags, which R31 and R181 call
signals of the cycle and no memory, is the model's choice, log entry 4. -/
def Obligations.EdgeWithMemoryStalled : Prop :=
  ∀ k : Core, k.slotMEM.stall = true →
    (clockEdge k).slotWB = Slot.bubble ∧
    (clockEdge k).slotMEM = { k.slotMEM with stall := false } ∧
    (clockEdge k).slotEX = k.slotEX ∧
    (clockEdge k).slotID = { k.slotID with stall := false } ∧
    (clockEdge k).slotIF = k.slotIF ∧
    (k.wrPending = true → (clockEdge k).x[k.wrDest] = k.wrValue) ∧
    (clockEdge k).pc = k.sig.pcNext ∧
    (clockEdge k).redirectPending = k.sig.redirectPendingNext ∧
    (clockEdge k).redirectTarget = k.sig.redirectTargetNext ∧
    (clockEdge k).stopFetch = (k.stopFetch || k.sig.haltNow) ∧
    (clockEdge k).halted = (k.halted || k.sig.haltWb)

/-- R201, R202, R203: with memory not stalled, writeback takes memory's slot and memory execute's, each with its new
result; then either decode holds and execute becomes a bubble, or execute takes decode's slot, decode fetch's, and fetch is
cleared. A bubble moves as a bubble; that it moves as the slot whose fields are all 0 is the model's reading of R30's
convention, log entry 9. That the edge clears the stall flags is the model's choice, log entry 4. -/
def Obligations.EdgeAdvance : Prop :=
  ∀ k : Core, k.slotMEM.stall = false →
    (clockEdge k).slotWB = (if k.slotMEM.active then { k.slotMEM with result := k.sig.memResult } else Slot.bubble) ∧
    (clockEdge k).slotMEM =
      (if k.slotEX.active then { k.slotEX with result := k.sig.exResult, stall := false } else Slot.bubble) ∧
    (k.slotID.stall = true →
      (clockEdge k).slotEX = Slot.bubble ∧ (clockEdge k).slotID = { k.slotID with stall := false } ∧
        (clockEdge k).slotIF = k.slotIF) ∧
    (k.slotID.stall = false →
      (clockEdge k).slotEX = (if k.slotID.active then { k.slotID with result := 0 } else Slot.bubble) ∧
        (clockEdge k).slotID = { k.slotIF with stall := false } ∧ (clockEdge k).slotIF = Slot.bubble)

/-- R204: the register commit at every edge, in its order: register 0 is 0; register 1 is the immediate of the
instruction that is now in decode, or keeps its value while decode holds a bubble; the pending write, whose destination is
never 0 or 1, is committed; every other register is unchanged; the latch is cleared. -/
def Obligations.EdgeRegisterCommit : Prop :=
  ∀ k : Core, (k.wrPending = true → k.wrDest ≠ 0 ∧ k.wrDest ≠ 1) →
    (∀ n : RegNum, (clockEdge k).x[n] =
      if k.wrPending = true ∧ n = k.wrDest then k.wrValue
      else if n = 0 then 0
      else if n = 1 ∧ (clockEdge k).slotID.active = true then (decodeRecord (clockEdge k).slotID.raw).imm
      else k.x[n]) ∧
    (clockEdge k).wrPending = false

/-- R205, R206: the latches and the counters of the edge; the hit, miss and instruction counters are not touched. -/
def Obligations.EdgeLatchesAndCounters : Prop :=
  ∀ k : Core,
    (clockEdge k).pc = k.sig.pcNext ∧ (clockEdge k).redirectPending = k.sig.redirectPendingNext ∧
    (clockEdge k).redirectTarget = k.sig.redirectTargetNext ∧
    (clockEdge k).stopFetch = (k.stopFetch || k.sig.haltNow) ∧
    (clockEdge k).halted = (k.halted || k.sig.haltWb) ∧
    (clockEdge k).counters = { k.counters with
      memStall := k.counters.memStall + if k.slotMEM.stall then 1 else 0
      decodeStall := k.counters.decodeStall + if k.slotID.stall then 1 else 0
      cycles := k.counters.cycles + if k.halted then 0 else 1 }

/-! ## The bus controller -/

/-- R220: the address decomposition. Offset, index and tag are bits 1:0, 7:2 and 19:8; together they make the address up
again; the block base is word 0 of the block. -/
def Obligations.AddressDecomposition : Prop :=
  ∀ a : Addr,
    (addrOffset a).val = a.toNat % 4 ∧ (addrIndex a).val = a.toNat / 4 % 64 ∧ (addrTag a).toNat = a.toNat / 256 ∧
    wordAddr (addrTag a) (addrIndex a) (addrOffset a) = a ∧ (blockBase a).toNat = a.toNat / 4 * 4

/-- R242, R257, R258, R266: the two controller steps that move no data. Idle without an eligible mailbox it resets the bus wires
and does nothing else; busy and cooling down it decrements the cooldown counter and does nothing else. -/
def Obligations.IdleAndCooldownSteps : Prop :=
  ∀ s : State,
    (s.bus.busy = false → (∀ c : CoreId, ¬ ((s.core c).mbox.pending = true ∧ (s.core c).mbox.done = false)) →
      busStep s = .next { s with bus := { s.bus with cmd := .none, addr := 0, origid := 0, shared := false, data := 0 } }) ∧
    (s.bus.busy = true → 0 < s.bus.cooldown →
      busStep s = .next { s with bus := { s.bus with cooldown := s.bus.cooldown - 1 } })

/-- R258: the arbiter selects the eligible core that comes first in the cyclic order from just after the last-granted
core, the last-granted core itself being the last candidate. -/
def Obligations.ArbitrationIsRoundRobin : Prop :=
  ∀ (s : State) (r : CoreId),
    arbitrate s = some r ↔
      (s.core r).mbox.eligible = true ∧
      ∀ o : CoreId, (s.core o).mbox.eligible = true →
        (r.val + 3 - s.bus.lastGranted.val) % 4 ≤ (o.val + 3 - s.bus.lastGranted.val) % 4

/-- R259, R265: a requester whose own target line holds Modified data under a different tag gets an eviction flush of that
old block first, with zero cooldown and post-flush state `Invalid`; nothing but the bus changes. -/
def Obligations.EvictionFlushStarts : Prop :=
  ∀ (s : State) (r : CoreId) (c : BusCmd) (a : Addr), s.Selects r c a →
    (s.line r (addrIndex a)).state = .modified → (s.line r (addrIndex a)).tag ≠ addrTag a →
    busStep s = .next { s with
      bus := { cmd := .flush, addr := wordAddr (s.line r (addrIndex a)).tag (addrIndex a) 0, origid := r, shared := false,
               data := 0, cooldown := 0, cursor := 0, busy := true, lastGranted := s.bus.lastGranted,
               postFlush := .invalid } }

/-- R260, R261, R265: when no eviction is needed and another core holds the block Modified, the controller starts a flush
of that line, with the shared signal set and post-flush state `Shared` for a Read and `Invalid` for a ReadExclusive;
nothing but the bus changes. (The caches coherent, R72 (a): the scan then meets no other holder first.) -/
def Obligations.SnoopFlushStarts : Prop :=
  ∀ (s : State) (r o : CoreId) (c : BusCmd) (a : Addr), s.Coherent → s.Selects r c a →
    ¬ ((s.line r (addrIndex a)).state = .modified ∧ (s.line r (addrIndex a)).tag ≠ addrTag a) →
    o ≠ r → (s.line o (addrIndex a)).state = .modified → (s.line o (addrIndex a)).tag = addrTag a →
    busStep s = .next { s with
      bus := { cmd := .flush, addr := blockBase a, origid := o, shared := true, data := 0, cooldown := 0, cursor := 0,
               busy := true, lastGranted := s.bus.lastGranted,
               postFlush := if c = .read then .shared else .invalid } }

/-- R260, R262, R263, R264: when neither flush is needed the bus is granted: command, address and requester recorded, the
latency cooldown set, the cursor reset, the shared signal telling whether another cache holds the block; every other
holder's line goes to `Shared` under a Read and to `Invalid` under a ReadExclusive, its tag and data left; nothing else
changes. -/
def Obligations.GrantSnoops : Prop :=
  ∀ (s : State) (r : CoreId) (c : BusCmd) (a : Addr), s.Selects r c a →
    ¬ ((s.line r (addrIndex a)).state = .modified ∧ (s.line r (addrIndex a)).tag ≠ addrTag a) →
    (∀ o : CoreId, o ≠ r → ¬ ((s.line o (addrIndex a)).state = .modified ∧ (s.line o (addrIndex a)).tag = addrTag a)) →
    ∃ t, busStep s = .next t ∧
      t.bus = { cmd := c, addr := a, origid := r, shared := decide (∃ o : CoreId, o ≠ r ∧ (s.core o).cache.holds a = true),
                data := 0, cooldown := Config.busLatency, cursor := 0, busy := true,
                lastGranted := s.bus.lastGranted, postFlush := s.bus.postFlush } ∧
      t.mem = s.mem ∧ t.cycle = s.cycle ∧ t.focus = s.focus ∧
      ∀ o : CoreId, (s.core o).OnlyCache (t.core o) ∧ (t.core o).cache.data = (s.core o).cache.data ∧
        ∀ i : LineIndex, t.line o i =
          if o ≠ r ∧ i = addrIndex a ∧ (s.core o).cache.holds a = true then
            { tag := addrTag a, state := if c = .read then .shared else .invalid }
          else s.line o i

/-- R267: a fill moves one word from memory to the requester's cache data at the block-aligned address plus the cursor,
and advances the cursor; the line's tag and state, the other words, memory and the other cores are unchanged. -/
def Obligations.FillMovesOneWord : Prop :=
  ∀ s : State, s.bus.busy = true → s.bus.cooldown = 0 → (s.bus.cmd = .read ∨ s.bus.cmd = .readExclusive) →
    s.bus.cursor.val < 3 →
    let w := s.mem.read (s.bus.addr.toNat / 4 * 4 + s.bus.cursor.val)
    ∃ t, busStep s = .next t ∧ t.mem = s.mem ∧ t.cycle = s.cycle ∧ t.focus = s.focus ∧
      t.bus = { s.bus with data := w, cursor := s.bus.cursor + 1 } ∧
      (∀ o : CoreId, o ≠ s.bus.origid → t.core o = s.core o) ∧
      (s.core s.bus.origid).OnlyCache (t.core s.bus.origid) ∧
      (s.core s.bus.origid).cache.WithLineAndWord (t.core s.bus.origid).cache (addrIndex s.bus.addr)
        (s.line s.bus.origid (addrIndex s.bus.addr)) s.bus.cursor w

/-- R267, R269, R270, R272, R273: the step of a fill's last word also finalizes: the line takes the block's tag and the
state `Modified` for a ReadExclusive, `Shared` or `Exclusive` by the shared signal for a Read; the requester's mailbox is
done and no longer pending; the bus is free and the requester recorded as last granted. -/
def Obligations.FillFinalizes : Prop :=
  ∀ s : State, s.bus.busy = true → s.bus.cooldown = 0 → (s.bus.cmd = .read ∨ s.bus.cmd = .readExclusive) →
    s.bus.cursor = 3 →
    let w := s.mem.read (s.bus.addr.toNat / 4 * 4 + 3)
    let m : Mesi := if s.bus.cmd = .readExclusive then .modified else if s.bus.shared then .shared else .exclusive
    ∃ t, busStep s = .next t ∧ t.mem = s.mem ∧ t.cycle = s.cycle ∧ t.focus = s.focus ∧
      t.bus = { s.bus with data := w, cursor := 0, busy := false, lastGranted := s.bus.origid } ∧
      (∀ o : CoreId, o ≠ s.bus.origid → t.core o = s.core o) ∧
      (t.core s.bus.origid) = { s.core s.bus.origid with
        cache := (t.core s.bus.origid).cache
        mbox := { (s.core s.bus.origid).mbox with pending := false, done := true } } ∧
      (s.core s.bus.origid).cache.WithLineAndWord (t.core s.bus.origid).cache (addrIndex s.bus.addr)
        { tag := addrTag s.bus.addr, state := m } 3 w

/-- R268: a flush moves one word from the owner's cache data to memory at the bus address plus the cursor, and advances
the cursor; every other word of memory reads as before, and no core changes. (The canonical form the memory is taken to
have is the model's choice, log entry 1.) -/
def Obligations.FlushMovesOneWord : Prop :=
  ∀ s : State, Memory.wf Config.memSize s.mem → s.bus.busy = true → s.bus.cooldown = 0 → s.bus.cmd = .flush →
    s.bus.cursor.val < 3 →
    let w := (s.core s.bus.origid).cache.word (addrIndex s.bus.addr) s.bus.cursor
    ∃ t, busStep s = .next t ∧ t.cores = s.cores ∧ t.cycle = s.cycle ∧ t.focus = s.focus ∧
      t.bus = { s.bus with data := w, cursor := s.bus.cursor + 1 } ∧
      ∀ a : Nat, t.mem.read a = if a = (s.bus.addr.toNat + s.bus.cursor.val) % 2 ^ 20 then w else s.mem.read a

/-- R268, R271, R273: the step of a flush's last word also finalizes: the drained line takes the deferred post-flush state
and keeps its tag, the post-flush state goes back to `Invalid`, the bus is free; no mailbox is touched and `last_granted`
is unchanged. (The canonical form the memory is taken to have is the model's choice, log entry 1.) -/
def Obligations.FlushFinalizes : Prop :=
  ∀ s : State, Memory.wf Config.memSize s.mem → s.bus.busy = true → s.bus.cooldown = 0 → s.bus.cmd = .flush →
    s.bus.cursor = 3 →
    let w := (s.core s.bus.origid).cache.word (addrIndex s.bus.addr) 3
    ∃ t, busStep s = .next t ∧ t.cycle = s.cycle ∧ t.focus = s.focus ∧
      t.bus = { s.bus with data := w, cursor := 0, busy := false, postFlush := .invalid } ∧
      (∀ a : Nat, t.mem.read a = if a = (s.bus.addr.toNat + 3) % 2 ^ 20 then w else s.mem.read a) ∧
      (∀ o : CoreId, o ≠ s.bus.origid → t.core o = s.core o) ∧
      (s.core s.bus.origid).OnlyCache (t.core s.bus.origid) ∧
      (t.core s.bus.origid).cache.data = (s.core s.bus.origid).cache.data ∧
      ∀ i : LineIndex, t.line s.bus.origid i =
        if i = addrIndex s.bus.addr then { tag := (s.line s.bus.origid i).tag, state := s.bus.postFlush }
        else s.line s.bus.origid i

/-! ## Reset -/

/-- R53: every piece of state after reset, with the four instruction images and the memory image loaded. -/
def Obligations.ResetValues : Prop :=
  ∀ (images : Vector (List Word) 4) (memImage : List Word),
    (∀ c : CoreId, images[c].length ≤ Config.imemSize) → memImage.length ≤ Config.memSize →
    let s := State.reset.loadImages images memImage
    (∀ c : CoreId,
      (∀ n : RegNum, (s.core c).x[n] = 0) ∧ (s.core c).pc = 0 ∧
      (s.core c).slotIF = Slot.bubble ∧ (s.core c).slotID = Slot.bubble ∧ (s.core c).slotEX = Slot.bubble ∧
      (s.core c).slotMEM = Slot.bubble ∧ (s.core c).slotWB = Slot.bubble ∧
      (s.core c).stopFetch = false ∧ (s.core c).halted = false ∧
      (s.core c).redirectPending = false ∧ (s.core c).redirectTarget = 0 ∧
      (s.core c).wrPending = false ∧ (s.core c).wrDest = 0 ∧ (s.core c).wrValue = 0 ∧
      (s.core c).counters = Counters.reset ∧
      (∀ p, p < Config.imemSize → (s.core c).imem.read p = images[c].getD p 0) ∧
      (∀ i, s.line c i = { tag := 0, state := .invalid }) ∧ (∀ i o, (s.core c).cache.word i o = 0) ∧
      (s.core c).mbox = { pending := false, done := false, addr := 0, cmd := .none, requester := c }) ∧
    s.bus = { cmd := .none, addr := 0, origid := 0, shared := false, data := 0, cooldown := 0, cursor := 0, busy := false,
              lastGranted := 3, postFlush := .invalid } ∧
    (∀ a, a < Config.memSize → s.mem.read a = memImage.getD a 0) ∧ s.cycle = 0

/-- R351: in the first cycle after reset every core fetches the word at instruction address 0 of its own instruction
memory; that word is then in decode, and `pc` is 1. -/
def Obligations.FirstCycleFetchesWordZero : Prop :=
  ∀ (images : Vector (List Word) 4) (memImage : List Word),
    ∃ t, step (State.reset.loadImages images memImage) = .next t ∧ t.cycle = 1 ∧
      ∀ c : CoreId, (t.core c).pc = 1 ∧
        (t.core c).slotID = { active := true, pc := 0, raw := images[c].getD 0 0, result := 0, stall := false }

/-! ## Invariants -/

/-- The invariant holds right after reset (R53), whatever images are loaded. The invariant holds R207 and what the model adds
to the spec's invariants: the canonical form of the memories (log entry 1), the neutral value of the evaluation's place (log
entry 3) and of the wires (log entry 4), and the strengthening that makes it inductive (log entry 23). An image longer than
its memory is cut: the model's choice, log entry 17. -/
def Obligations.InvAfterReset : Prop :=
  ∀ (images : Vector (List Word) 4) (memImage : List Word), (State.reset.loadImages images memImage).Inv

/-- Every step keeps the invariant of the machine. Beyond the spec's invariants it holds the canonical form of the memories
(log entry 1), the neutral value of the evaluation's place and of the wires (log entries 3 and 4) and the strengthening that
makes it inductive (log entry 23): the model's choices. -/
def Obligations.StepKeepsInv : Prop :=
  ∀ s t : State, s.Inv → step s = .next t → t.Inv

/-- R303: every cycle completes. In a state that meets the invariant a step stops on nothing. -/
def Obligations.EveryCycleCompletes : Prop :=
  ∀ s : State, s.Inv → ∃ t, step s = .next t

/-- System memory and every instruction memory keep their canonical form in every step, from any state in which they
have it. -/
def Obligations.StepKeepsMemoriesCanonical : Prop :=
  ∀ s t : State, Memory.wf Config.memSize s.mem → (∀ c : CoreId, Memory.wf Config.imemSize (s.core c).imem) →
    step s = .next t →
    Memory.wf Config.memSize t.mem ∧ ∀ c : CoreId, Memory.wf Config.imemSize (t.core c).imem

/-- R38, R48, R76: no step writes an instruction memory, and system memory changes only in the transfer step of a flush, in
the one word the flush moves. -/
def Obligations.MemoriesChangeOnlyByFlush : Prop :=
  ∀ s t : State, step s = .next t →
    (∀ c : CoreId, (t.core c).imem = (s.core c).imem) ∧
    ∀ a : Nat, t.mem.read a ≠ s.mem.read a →
      s.bus.busy = true ∧ s.bus.cmd = .flush ∧ s.bus.cooldown = 0 ∧
        a = (s.bus.addr.toNat + s.bus.cursor.val) % 2 ^ 20

/-- R20: a step changes a general register of a core only by the write of the instruction in that core's own writeback
slot. -/
def Obligations.RegistersChangeOnlyByWriteback : Prop :=
  ∀ (s t : State) (c : CoreId) (n : RegNum), s.Inv → step s = .next t → 2 ≤ n.val →
    (t.core c).x[n] ≠ (s.core c).x[n] →
    (s.core c).slotWB.dest = some n ∧ (t.core c).x[n] = (s.core c).slotWB.result

/-- R34, R331: a halted core stays as it is: halted, its registers, program counter and counters unchanged, its slots
empty. -/
def Obligations.HaltedCoreIsFrozen : Prop :=
  ∀ (s t : State) (c : CoreId), s.Inv → step s = .next t → (s.core c).halted = true →
    (t.core c).halted = true ∧ (t.core c).x = (s.core c).x ∧ (t.core c).pc = (s.core c).pc ∧
    (t.core c).counters = (s.core c).counters ∧
    (t.core c).slotID.active = false ∧ (t.core c).DrainedBehindDecode

/-- R304: when every core is halted, every pipeline and every mailbox is empty and the bus is idle. -/
def Obligations.EndOfRunIsDrained : Prop :=
  ∀ s : State, s.Inv → s.finished = true →
    s.bus.busy = false ∧ ∀ c : CoreId, (s.core c).mbox.pending = false ∧ (s.core c).mbox.done = false ∧
      (s.core c).slotID.active = false ∧ (s.core c).DrainedBehindDecode

/-- R327: the retired-instruction, cycle and decode-stall counters over one step: one more instruction exactly when the
writeback slot was active, one more cycle exactly when the core was not halted, one more decode stall exactly when the
hazard condition held. -/
def Obligations.CountersOfOneStep : Prop :=
  ∀ (s t : State) (c : CoreId), step s = .next t →
    (t.core c).counters.instructions = (s.core c).counters.instructions + (if (s.core c).slotWB.active then 1 else 0) ∧
    (t.core c).counters.cycles = (s.core c).counters.cycles + (if (s.core c).halted then 0 else 1) ∧
    (t.core c).counters.decodeStall = (s.core c).counters.decodeStall +
      (if (s.core c).slotID.active && hazard (s.core c) (recordSrcs (decodeRecord (s.core c).slotID.raw)) then 1 else 0)

/-! ## Across cycles -/

/-- R274 (f): a transaction in flight finalizes in exactly as many steps as its cooldown plus the words it still has to
move; an original request's mailbox is then done and its block valid in the requester's cache. -/
def Obligations.TransactionFinalizesInTime : Prop :=
  ∀ s : State, s.Inv → s.bus.busy = true →
    ∃ t, Host.Core.run Sys2Proof.core (s.bus.cooldown + (4 - s.bus.cursor.val)) s = .next t ∧ t.bus.busy = false ∧
      (s.bus.cmd ≠ .flush → (t.core s.bus.origid).mbox.done = true ∧ (t.core s.bus.origid).cache.hit s.bus.addr = true)

/-- R190, R194, R244: in the cycle after its request completed, a load or store retries and succeeds: it moves to
writeback, its mailbox is empty, and no hit or miss is counted. -/
def Obligations.RetrySucceeds : Prop :=
  ∀ (s t : State) (c : CoreId), s.Inv → (s.core c).mbox.done = true → step s = .next t →
    (t.core c).mbox.done = false ∧ (t.core c).mbox.pending = false ∧
    (t.core c).slotWB.active = true ∧ (t.core c).slotWB.raw = (s.core c).slotMEM.raw ∧
    (t.core c).counters.readHit = (s.core c).counters.readHit ∧
    (t.core c).counters.readMiss = (s.core c).counters.readMiss ∧
    (t.core c).counters.writeHit = (s.core c).counters.writeHit ∧
    (t.core c).counters.writeMiss = (s.core c).counters.writeMiss

/-- R110, R137, R139, R208: the result of an arithmetic or logic instruction or a `jal` that is in decode, with nothing in
the stages behind it, is in the register file four cycles later, and it is what the instruction-level view gives: the
destination holds the result (nothing for destinations 0 and 1), every other general register is unchanged. -/
def Obligations.ResultCommitsFourCyclesLater : Prop :=
  ∀ (s : State) (c : CoreId) (i : Instr) (q : SeqState), s.Inv →
    (s.core c).slotID.active = true → decode (s.core c).slotID.raw = .ok i → i.op ≤ 8 ∨ i.op = 15 →
    (s.core c).DrainedBehindDecode → q.x = (s.core c).x → q.pc = (s.core c).slotID.pc →
    ∃ t, Host.Core.run Sys2Proof.core 4 s = .next t ∧
      ∀ n : RegNum, 2 ≤ n.val → (t.core c).x[n] = (seqExec i q).x[n]

/-- R130, R139, R184, R197: a branch or `jal` in decode without a hazard, with the memory stage free to move, takes the
program counter where the instruction-level view takes it: the delay slot at `npc` is fetched and is in decode next, and
the program counter is the target if taken, else the word after the delay slot. -/
def Obligations.BranchTakesEffectAfterDelaySlot : Prop :=
  ∀ (s t : State) (c : CoreId) (i : Instr) (q : SeqState), s.Inv → step s = .next t →
    (s.core c).slotID.active = true → decode (s.core c).slotID.raw = .ok i → 9 ≤ i.op → i.op ≤ 15 →
    hazard (s.core c) [i.rs, i.rt, i.rd] = false → (s.core c).MemoryPasses → (s.core c).redirectPending = false →
    q.x = (s.core c).x → q.npc = (s.core c).pc →
    (t.core c).pc = (seqExec i q).npc ∧
    (t.core c).slotID = { active := true, pc := (seqExec i q).pc, raw := (s.core c).imem.read (seqExec i q).pc.toNat,
                          result := 0, stall := false }

/-- R160, R207: a `halt` in decode with nothing in the stages behind it halts the core in four cycles; nothing is fetched
meanwhile, so the program counter does not move, and no general register changes. -/
def Obligations.HaltTakesFourCycles : Prop :=
  ∀ (s : State) (c : CoreId) (i : Instr), s.Inv →
    (s.core c).slotID.active = true → decode (s.core c).slotID.raw = .ok i → i.op = 20 →
    (s.core c).DrainedBehindDecode → (s.core c).redirectPending = false →
    ∃ t, Host.Core.run Sys2Proof.core 4 s = .next t ∧ (t.core c).halted = true ∧ (t.core c).pc = (s.core c).pc ∧
      (∀ n : RegNum, 2 ≤ n.val → (t.core c).x[n] = (s.core c).x[n]) ∧
      (t.core c).counters.instructions = (s.core c).counters.instructions + 1

/-- R151, R190, R196: a load in the memory stage that hits has its word in the register file two cycles later; the second
of the two edges changes no other general register. -/
def Obligations.LoadHitCommitsTwoCyclesLater : Prop :=
  ∀ (s : State) (c : CoreId) (rd rs rt : RegNum) (imm : Word), s.Inv →
    (s.core c).slotMEM.active = true → decode (s.core c).slotMEM.raw = .ok (.lw rd rs rt imm) →
    (s.core c).mbox.pending = false → (s.core c).cache.hit (addrOfWord (s.core c).slotMEM.result) = true →
    ∃ t u, step s = .next t ∧ step t = .next u ∧
      ∀ n : RegNum, 2 ≤ n.val → (u.core c).x[n] =
        if n = rd then (s.core c).cache.read (addrOfWord (s.core c).slotMEM.result) else (t.core c).x[n]

/-- R71, R78, R152: a store in the memory stage to a line its core holds `Modified` or `Exclusive` is performed in that
cycle: after the step the word at its address in the core's own cache is the `rd` operand, every other word of that cache
is unchanged, and the store has moved to writeback. -/
def Obligations.StoreHitIsPerformedInItsCycle : Prop :=
  ∀ (s t : State) (c : CoreId) (rd rs rt : RegNum) (imm : Word), s.Inv → step s = .next t →
    (s.core c).slotMEM.active = true → decode (s.core c).slotMEM.raw = .ok (.sw rd rs rt imm) →
    (s.core c).mbox.pending = false → (s.core c).cache.ownsForWrite (addrOfWord (s.core c).slotMEM.result) = true →
    (t.core c).slotWB.raw = (s.core c).slotMEM.raw ∧ (t.core c).slotWB.active = true ∧
    ∀ (i : LineIndex) (o : Offset), (t.core c).cache.word i o =
      if i = addrIndex (addrOfWord (s.core c).slotMEM.result) ∧ o = addrOffset (addrOfWord (s.core c).slotMEM.result) then
        opval (s.core c) rd imm
      else (s.core c).cache.word i o
end

