-- ==== Sys2Proof/Laws/State.lean ====
section
/-!
SUPPORT. One lemma per field per update of the state records, so that no later proof unfolds a record update, and the
lemmas that read a core back after an update of the cores.
-/

namespace Sys2Proof.Machine

/-! ## Core updates -/

@[simp] theorem Core.setDecStall_x (k : Core) (b : Bool) : (k.setDecStall b).x = k.x := rfl
@[simp] theorem Core.setDecStall_pc (k : Core) (b : Bool) : (k.setDecStall b).pc = k.pc := rfl
@[simp] theorem Core.setDecStall_slotIF (k : Core) (b : Bool) : (k.setDecStall b).slotIF = k.slotIF := rfl
@[simp] theorem Core.setDecStall_slotID_active (k : Core) (b : Bool) : (k.setDecStall b).slotID.active = k.slotID.active := rfl
@[simp] theorem Core.setDecStall_slotID_pc (k : Core) (b : Bool) : (k.setDecStall b).slotID.pc = k.slotID.pc := rfl
@[simp] theorem Core.setDecStall_slotID_raw (k : Core) (b : Bool) : (k.setDecStall b).slotID.raw = k.slotID.raw := rfl
@[simp] theorem Core.setDecStall_slotID_result (k : Core) (b : Bool) : (k.setDecStall b).slotID.result = k.slotID.result := rfl
@[simp] theorem Core.setDecStall_slotID_stall (k : Core) (b : Bool) : (k.setDecStall b).slotID.stall = b := rfl
@[simp] theorem Core.setDecStall_slotEX (k : Core) (b : Bool) : (k.setDecStall b).slotEX = k.slotEX := rfl
@[simp] theorem Core.setDecStall_slotMEM (k : Core) (b : Bool) : (k.setDecStall b).slotMEM = k.slotMEM := rfl
@[simp] theorem Core.setDecStall_slotWB (k : Core) (b : Bool) : (k.setDecStall b).slotWB = k.slotWB := rfl
@[simp] theorem Core.setDecStall_stopFetch (k : Core) (b : Bool) : (k.setDecStall b).stopFetch = k.stopFetch := rfl
@[simp] theorem Core.setDecStall_halted (k : Core) (b : Bool) : (k.setDecStall b).halted = k.halted := rfl
@[simp] theorem Core.setDecStall_redirectPending (k : Core) (b : Bool) : (k.setDecStall b).redirectPending = k.redirectPending := rfl
@[simp] theorem Core.setDecStall_redirectTarget (k : Core) (b : Bool) : (k.setDecStall b).redirectTarget = k.redirectTarget := rfl
@[simp] theorem Core.setDecStall_wrPending (k : Core) (b : Bool) : (k.setDecStall b).wrPending = k.wrPending := rfl
@[simp] theorem Core.setDecStall_wrDest (k : Core) (b : Bool) : (k.setDecStall b).wrDest = k.wrDest := rfl
@[simp] theorem Core.setDecStall_wrValue (k : Core) (b : Bool) : (k.setDecStall b).wrValue = k.wrValue := rfl
@[simp] theorem Core.setDecStall_counters (k : Core) (b : Bool) : (k.setDecStall b).counters = k.counters := rfl
@[simp] theorem Core.setDecStall_imem (k : Core) (b : Bool) : (k.setDecStall b).imem = k.imem := rfl
@[simp] theorem Core.setDecStall_cache (k : Core) (b : Bool) : (k.setDecStall b).cache = k.cache := rfl
@[simp] theorem Core.setDecStall_mbox (k : Core) (b : Bool) : (k.setDecStall b).mbox = k.mbox := rfl
@[simp] theorem Core.setDecStall_sig (k : Core) (b : Bool) : (k.setDecStall b).sig = k.sig := rfl
@[simp] theorem Core.setMemStall_x (k : Core) (b : Bool) : (k.setMemStall b).x = k.x := rfl
@[simp] theorem Core.setMemStall_pc (k : Core) (b : Bool) : (k.setMemStall b).pc = k.pc := rfl
@[simp] theorem Core.setMemStall_slotIF (k : Core) (b : Bool) : (k.setMemStall b).slotIF = k.slotIF := rfl
@[simp] theorem Core.setMemStall_slotID (k : Core) (b : Bool) : (k.setMemStall b).slotID = k.slotID := rfl
@[simp] theorem Core.setMemStall_slotEX (k : Core) (b : Bool) : (k.setMemStall b).slotEX = k.slotEX := rfl
@[simp] theorem Core.setMemStall_slotMEM_active (k : Core) (b : Bool) : (k.setMemStall b).slotMEM.active = k.slotMEM.active := rfl
@[simp] theorem Core.setMemStall_slotMEM_pc (k : Core) (b : Bool) : (k.setMemStall b).slotMEM.pc = k.slotMEM.pc := rfl
@[simp] theorem Core.setMemStall_slotMEM_raw (k : Core) (b : Bool) : (k.setMemStall b).slotMEM.raw = k.slotMEM.raw := rfl
@[simp] theorem Core.setMemStall_slotMEM_result (k : Core) (b : Bool) : (k.setMemStall b).slotMEM.result = k.slotMEM.result := rfl
@[simp] theorem Core.setMemStall_slotMEM_stall (k : Core) (b : Bool) : (k.setMemStall b).slotMEM.stall = b := rfl
@[simp] theorem Core.setMemStall_slotWB (k : Core) (b : Bool) : (k.setMemStall b).slotWB = k.slotWB := rfl
@[simp] theorem Core.setMemStall_stopFetch (k : Core) (b : Bool) : (k.setMemStall b).stopFetch = k.stopFetch := rfl
@[simp] theorem Core.setMemStall_halted (k : Core) (b : Bool) : (k.setMemStall b).halted = k.halted := rfl
@[simp] theorem Core.setMemStall_redirectPending (k : Core) (b : Bool) : (k.setMemStall b).redirectPending = k.redirectPending := rfl
@[simp] theorem Core.setMemStall_redirectTarget (k : Core) (b : Bool) : (k.setMemStall b).redirectTarget = k.redirectTarget := rfl
@[simp] theorem Core.setMemStall_wrPending (k : Core) (b : Bool) : (k.setMemStall b).wrPending = k.wrPending := rfl
@[simp] theorem Core.setMemStall_wrDest (k : Core) (b : Bool) : (k.setMemStall b).wrDest = k.wrDest := rfl
@[simp] theorem Core.setMemStall_wrValue (k : Core) (b : Bool) : (k.setMemStall b).wrValue = k.wrValue := rfl
@[simp] theorem Core.setMemStall_counters (k : Core) (b : Bool) : (k.setMemStall b).counters = k.counters := rfl
@[simp] theorem Core.setMemStall_imem (k : Core) (b : Bool) : (k.setMemStall b).imem = k.imem := rfl
@[simp] theorem Core.setMemStall_cache (k : Core) (b : Bool) : (k.setMemStall b).cache = k.cache := rfl
@[simp] theorem Core.setMemStall_mbox (k : Core) (b : Bool) : (k.setMemStall b).mbox = k.mbox := rfl
@[simp] theorem Core.setMemStall_sig (k : Core) (b : Bool) : (k.setMemStall b).sig = k.sig := rfl
@[simp] theorem Core.setExResult_x (k : Core) (v : Word) : (k.setExResult v).x = k.x := rfl
@[simp] theorem Core.setExResult_pc (k : Core) (v : Word) : (k.setExResult v).pc = k.pc := rfl
@[simp] theorem Core.setExResult_slotIF (k : Core) (v : Word) : (k.setExResult v).slotIF = k.slotIF := rfl
@[simp] theorem Core.setExResult_slotID (k : Core) (v : Word) : (k.setExResult v).slotID = k.slotID := rfl
@[simp] theorem Core.setExResult_slotEX (k : Core) (v : Word) : (k.setExResult v).slotEX = k.slotEX := rfl
@[simp] theorem Core.setExResult_slotMEM (k : Core) (v : Word) : (k.setExResult v).slotMEM = k.slotMEM := rfl
@[simp] theorem Core.setExResult_slotWB (k : Core) (v : Word) : (k.setExResult v).slotWB = k.slotWB := rfl
@[simp] theorem Core.setExResult_stopFetch (k : Core) (v : Word) : (k.setExResult v).stopFetch = k.stopFetch := rfl
@[simp] theorem Core.setExResult_halted (k : Core) (v : Word) : (k.setExResult v).halted = k.halted := rfl
@[simp] theorem Core.setExResult_redirectPending (k : Core) (v : Word) : (k.setExResult v).redirectPending = k.redirectPending := rfl
@[simp] theorem Core.setExResult_redirectTarget (k : Core) (v : Word) : (k.setExResult v).redirectTarget = k.redirectTarget := rfl
@[simp] theorem Core.setExResult_wrPending (k : Core) (v : Word) : (k.setExResult v).wrPending = k.wrPending := rfl
@[simp] theorem Core.setExResult_wrDest (k : Core) (v : Word) : (k.setExResult v).wrDest = k.wrDest := rfl
@[simp] theorem Core.setExResult_wrValue (k : Core) (v : Word) : (k.setExResult v).wrValue = k.wrValue := rfl
@[simp] theorem Core.setExResult_counters (k : Core) (v : Word) : (k.setExResult v).counters = k.counters := rfl
@[simp] theorem Core.setExResult_imem (k : Core) (v : Word) : (k.setExResult v).imem = k.imem := rfl
@[simp] theorem Core.setExResult_cache (k : Core) (v : Word) : (k.setExResult v).cache = k.cache := rfl
@[simp] theorem Core.setExResult_mbox (k : Core) (v : Word) : (k.setExResult v).mbox = k.mbox := rfl
@[simp] theorem Core.setExResult_sig_exResult (k : Core) (v : Word) : (k.setExResult v).sig.exResult = v := rfl
@[simp] theorem Core.setExResult_sig_memResult (k : Core) (v : Word) : (k.setExResult v).sig.memResult = k.sig.memResult := rfl
@[simp] theorem Core.setExResult_sig_redirNow (k : Core) (v : Word) : (k.setExResult v).sig.redirNow = k.sig.redirNow := rfl
@[simp] theorem Core.setExResult_sig_redirTgtNow (k : Core) (v : Word) : (k.setExResult v).sig.redirTgtNow = k.sig.redirTgtNow := rfl
@[simp] theorem Core.setExResult_sig_haltNow (k : Core) (v : Word) : (k.setExResult v).sig.haltNow = k.sig.haltNow := rfl
@[simp] theorem Core.setExResult_sig_haltWb (k : Core) (v : Word) : (k.setExResult v).sig.haltWb = k.sig.haltWb := rfl
@[simp] theorem Core.setExResult_sig_fetchEn (k : Core) (v : Word) : (k.setExResult v).sig.fetchEn = k.sig.fetchEn := rfl
@[simp] theorem Core.setExResult_sig_pcNext (k : Core) (v : Word) : (k.setExResult v).sig.pcNext = k.sig.pcNext := rfl
@[simp] theorem Core.setExResult_sig_redirectPendingNext (k : Core) (v : Word) : (k.setExResult v).sig.redirectPendingNext = k.sig.redirectPendingNext := rfl
@[simp] theorem Core.setExResult_sig_redirectTargetNext (k : Core) (v : Word) : (k.setExResult v).sig.redirectTargetNext = k.sig.redirectTargetNext := rfl
@[simp] theorem Core.setMemResult_x (k : Core) (v : Word) : (k.setMemResult v).x = k.x := rfl
@[simp] theorem Core.setMemResult_pc (k : Core) (v : Word) : (k.setMemResult v).pc = k.pc := rfl
@[simp] theorem Core.setMemResult_slotIF (k : Core) (v : Word) : (k.setMemResult v).slotIF = k.slotIF := rfl
@[simp] theorem Core.setMemResult_slotID (k : Core) (v : Word) : (k.setMemResult v).slotID = k.slotID := rfl
@[simp] theorem Core.setMemResult_slotEX (k : Core) (v : Word) : (k.setMemResult v).slotEX = k.slotEX := rfl
@[simp] theorem Core.setMemResult_slotMEM (k : Core) (v : Word) : (k.setMemResult v).slotMEM = k.slotMEM := rfl
@[simp] theorem Core.setMemResult_slotWB (k : Core) (v : Word) : (k.setMemResult v).slotWB = k.slotWB := rfl
@[simp] theorem Core.setMemResult_stopFetch (k : Core) (v : Word) : (k.setMemResult v).stopFetch = k.stopFetch := rfl
@[simp] theorem Core.setMemResult_halted (k : Core) (v : Word) : (k.setMemResult v).halted = k.halted := rfl
@[simp] theorem Core.setMemResult_redirectPending (k : Core) (v : Word) : (k.setMemResult v).redirectPending = k.redirectPending := rfl
@[simp] theorem Core.setMemResult_redirectTarget (k : Core) (v : Word) : (k.setMemResult v).redirectTarget = k.redirectTarget := rfl
@[simp] theorem Core.setMemResult_wrPending (k : Core) (v : Word) : (k.setMemResult v).wrPending = k.wrPending := rfl
@[simp] theorem Core.setMemResult_wrDest (k : Core) (v : Word) : (k.setMemResult v).wrDest = k.wrDest := rfl
@[simp] theorem Core.setMemResult_wrValue (k : Core) (v : Word) : (k.setMemResult v).wrValue = k.wrValue := rfl
@[simp] theorem Core.setMemResult_counters (k : Core) (v : Word) : (k.setMemResult v).counters = k.counters := rfl
@[simp] theorem Core.setMemResult_imem (k : Core) (v : Word) : (k.setMemResult v).imem = k.imem := rfl
@[simp] theorem Core.setMemResult_cache (k : Core) (v : Word) : (k.setMemResult v).cache = k.cache := rfl
@[simp] theorem Core.setMemResult_mbox (k : Core) (v : Word) : (k.setMemResult v).mbox = k.mbox := rfl
@[simp] theorem Core.setMemResult_sig_exResult (k : Core) (v : Word) : (k.setMemResult v).sig.exResult = k.sig.exResult := rfl
@[simp] theorem Core.setMemResult_sig_memResult (k : Core) (v : Word) : (k.setMemResult v).sig.memResult = v := rfl
@[simp] theorem Core.setMemResult_sig_redirNow (k : Core) (v : Word) : (k.setMemResult v).sig.redirNow = k.sig.redirNow := rfl
@[simp] theorem Core.setMemResult_sig_redirTgtNow (k : Core) (v : Word) : (k.setMemResult v).sig.redirTgtNow = k.sig.redirTgtNow := rfl
@[simp] theorem Core.setMemResult_sig_haltNow (k : Core) (v : Word) : (k.setMemResult v).sig.haltNow = k.sig.haltNow := rfl
@[simp] theorem Core.setMemResult_sig_haltWb (k : Core) (v : Word) : (k.setMemResult v).sig.haltWb = k.sig.haltWb := rfl
@[simp] theorem Core.setMemResult_sig_fetchEn (k : Core) (v : Word) : (k.setMemResult v).sig.fetchEn = k.sig.fetchEn := rfl
@[simp] theorem Core.setMemResult_sig_pcNext (k : Core) (v : Word) : (k.setMemResult v).sig.pcNext = k.sig.pcNext := rfl
@[simp] theorem Core.setMemResult_sig_redirectPendingNext (k : Core) (v : Word) : (k.setMemResult v).sig.redirectPendingNext = k.sig.redirectPendingNext := rfl
@[simp] theorem Core.setMemResult_sig_redirectTargetNext (k : Core) (v : Word) : (k.setMemResult v).sig.redirectTargetNext = k.sig.redirectTargetNext := rfl
@[simp] theorem Core.setRedirect_x (k : Core) (b : Bool) (t : Pc) : (k.setRedirect b t).x = k.x := rfl
@[simp] theorem Core.setRedirect_pc (k : Core) (b : Bool) (t : Pc) : (k.setRedirect b t).pc = k.pc := rfl
@[simp] theorem Core.setRedirect_slotIF (k : Core) (b : Bool) (t : Pc) : (k.setRedirect b t).slotIF = k.slotIF := rfl
@[simp] theorem Core.setRedirect_slotID (k : Core) (b : Bool) (t : Pc) : (k.setRedirect b t).slotID = k.slotID := rfl
@[simp] theorem Core.setRedirect_slotEX (k : Core) (b : Bool) (t : Pc) : (k.setRedirect b t).slotEX = k.slotEX := rfl
@[simp] theorem Core.setRedirect_slotMEM (k : Core) (b : Bool) (t : Pc) : (k.setRedirect b t).slotMEM = k.slotMEM := rfl
@[simp] theorem Core.setRedirect_slotWB (k : Core) (b : Bool) (t : Pc) : (k.setRedirect b t).slotWB = k.slotWB := rfl
@[simp] theorem Core.setRedirect_stopFetch (k : Core) (b : Bool) (t : Pc) : (k.setRedirect b t).stopFetch = k.stopFetch := rfl
@[simp] theorem Core.setRedirect_halted (k : Core) (b : Bool) (t : Pc) : (k.setRedirect b t).halted = k.halted := rfl
@[simp] theorem Core.setRedirect_redirectPending (k : Core) (b : Bool) (t : Pc) : (k.setRedirect b t).redirectPending = k.redirectPending := rfl
@[simp] theorem Core.setRedirect_redirectTarget (k : Core) (b : Bool) (t : Pc) : (k.setRedirect b t).redirectTarget = k.redirectTarget := rfl
@[simp] theorem Core.setRedirect_wrPending (k : Core) (b : Bool) (t : Pc) : (k.setRedirect b t).wrPending = k.wrPending := rfl
@[simp] theorem Core.setRedirect_wrDest (k : Core) (b : Bool) (t : Pc) : (k.setRedirect b t).wrDest = k.wrDest := rfl
@[simp] theorem Core.setRedirect_wrValue (k : Core) (b : Bool) (t : Pc) : (k.setRedirect b t).wrValue = k.wrValue := rfl
@[simp] theorem Core.setRedirect_counters (k : Core) (b : Bool) (t : Pc) : (k.setRedirect b t).counters = k.counters := rfl
@[simp] theorem Core.setRedirect_imem (k : Core) (b : Bool) (t : Pc) : (k.setRedirect b t).imem = k.imem := rfl
@[simp] theorem Core.setRedirect_cache (k : Core) (b : Bool) (t : Pc) : (k.setRedirect b t).cache = k.cache := rfl
@[simp] theorem Core.setRedirect_mbox (k : Core) (b : Bool) (t : Pc) : (k.setRedirect b t).mbox = k.mbox := rfl
@[simp] theorem Core.setRedirect_sig_exResult (k : Core) (b : Bool) (t : Pc) : (k.setRedirect b t).sig.exResult = k.sig.exResult := rfl
@[simp] theorem Core.setRedirect_sig_memResult (k : Core) (b : Bool) (t : Pc) : (k.setRedirect b t).sig.memResult = k.sig.memResult := rfl
@[simp] theorem Core.setRedirect_sig_redirNow (k : Core) (b : Bool) (t : Pc) : (k.setRedirect b t).sig.redirNow = b := rfl
@[simp] theorem Core.setRedirect_sig_redirTgtNow (k : Core) (b : Bool) (t : Pc) : (k.setRedirect b t).sig.redirTgtNow = t := rfl
@[simp] theorem Core.setRedirect_sig_haltNow (k : Core) (b : Bool) (t : Pc) : (k.setRedirect b t).sig.haltNow = k.sig.haltNow := rfl
@[simp] theorem Core.setRedirect_sig_haltWb (k : Core) (b : Bool) (t : Pc) : (k.setRedirect b t).sig.haltWb = k.sig.haltWb := rfl
@[simp] theorem Core.setRedirect_sig_fetchEn (k : Core) (b : Bool) (t : Pc) : (k.setRedirect b t).sig.fetchEn = k.sig.fetchEn := rfl
@[simp] theorem Core.setRedirect_sig_pcNext (k : Core) (b : Bool) (t : Pc) : (k.setRedirect b t).sig.pcNext = k.sig.pcNext := rfl
@[simp] theorem Core.setRedirect_sig_redirectPendingNext (k : Core) (b : Bool) (t : Pc) : (k.setRedirect b t).sig.redirectPendingNext = k.sig.redirectPendingNext := rfl
@[simp] theorem Core.setRedirect_sig_redirectTargetNext (k : Core) (b : Bool) (t : Pc) : (k.setRedirect b t).sig.redirectTargetNext = k.sig.redirectTargetNext := rfl
@[simp] theorem Core.setHaltNow_x (k : Core) : k.setHaltNow.x = k.x := rfl
@[simp] theorem Core.setHaltNow_pc (k : Core) : k.setHaltNow.pc = k.pc := rfl
@[simp] theorem Core.setHaltNow_slotIF (k : Core) : k.setHaltNow.slotIF = k.slotIF := rfl
@[simp] theorem Core.setHaltNow_slotID (k : Core) : k.setHaltNow.slotID = k.slotID := rfl
@[simp] theorem Core.setHaltNow_slotEX (k : Core) : k.setHaltNow.slotEX = k.slotEX := rfl
@[simp] theorem Core.setHaltNow_slotMEM (k : Core) : k.setHaltNow.slotMEM = k.slotMEM := rfl
@[simp] theorem Core.setHaltNow_slotWB (k : Core) : k.setHaltNow.slotWB = k.slotWB := rfl
@[simp] theorem Core.setHaltNow_stopFetch (k : Core) : k.setHaltNow.stopFetch = k.stopFetch := rfl
@[simp] theorem Core.setHaltNow_halted (k : Core) : k.setHaltNow.halted = k.halted := rfl
@[simp] theorem Core.setHaltNow_redirectPending (k : Core) : k.setHaltNow.redirectPending = k.redirectPending := rfl
@[simp] theorem Core.setHaltNow_redirectTarget (k : Core) : k.setHaltNow.redirectTarget = k.redirectTarget := rfl
@[simp] theorem Core.setHaltNow_wrPending (k : Core) : k.setHaltNow.wrPending = k.wrPending := rfl
@[simp] theorem Core.setHaltNow_wrDest (k : Core) : k.setHaltNow.wrDest = k.wrDest := rfl
@[simp] theorem Core.setHaltNow_wrValue (k : Core) : k.setHaltNow.wrValue = k.wrValue := rfl
@[simp] theorem Core.setHaltNow_counters (k : Core) : k.setHaltNow.counters = k.counters := rfl
@[simp] theorem Core.setHaltNow_imem (k : Core) : k.setHaltNow.imem = k.imem := rfl
@[simp] theorem Core.setHaltNow_cache (k : Core) : k.setHaltNow.cache = k.cache := rfl
@[simp] theorem Core.setHaltNow_mbox (k : Core) : k.setHaltNow.mbox = k.mbox := rfl
@[simp] theorem Core.setHaltNow_sig_exResult (k : Core) : k.setHaltNow.sig.exResult = k.sig.exResult := rfl
@[simp] theorem Core.setHaltNow_sig_memResult (k : Core) : k.setHaltNow.sig.memResult = k.sig.memResult := rfl
@[simp] theorem Core.setHaltNow_sig_redirNow (k : Core) : k.setHaltNow.sig.redirNow = k.sig.redirNow := rfl
@[simp] theorem Core.setHaltNow_sig_redirTgtNow (k : Core) : k.setHaltNow.sig.redirTgtNow = k.sig.redirTgtNow := rfl
@[simp] theorem Core.setHaltNow_sig_haltNow (k : Core) : k.setHaltNow.sig.haltNow = true := rfl
@[simp] theorem Core.setHaltNow_sig_haltWb (k : Core) : k.setHaltNow.sig.haltWb = k.sig.haltWb := rfl
@[simp] theorem Core.setHaltNow_sig_fetchEn (k : Core) : k.setHaltNow.sig.fetchEn = k.sig.fetchEn := rfl
@[simp] theorem Core.setHaltNow_sig_pcNext (k : Core) : k.setHaltNow.sig.pcNext = k.sig.pcNext := rfl
@[simp] theorem Core.setHaltNow_sig_redirectPendingNext (k : Core) : k.setHaltNow.sig.redirectPendingNext = k.sig.redirectPendingNext := rfl
@[simp] theorem Core.setHaltNow_sig_redirectTargetNext (k : Core) : k.setHaltNow.sig.redirectTargetNext = k.sig.redirectTargetNext := rfl
@[simp] theorem Core.setHaltWb_x (k : Core) : k.setHaltWb.x = k.x := rfl
@[simp] theorem Core.setHaltWb_pc (k : Core) : k.setHaltWb.pc = k.pc := rfl
@[simp] theorem Core.setHaltWb_slotIF (k : Core) : k.setHaltWb.slotIF = k.slotIF := rfl
@[simp] theorem Core.setHaltWb_slotID (k : Core) : k.setHaltWb.slotID = k.slotID := rfl
@[simp] theorem Core.setHaltWb_slotEX (k : Core) : k.setHaltWb.slotEX = k.slotEX := rfl
@[simp] theorem Core.setHaltWb_slotMEM (k : Core) : k.setHaltWb.slotMEM = k.slotMEM := rfl
@[simp] theorem Core.setHaltWb_slotWB (k : Core) : k.setHaltWb.slotWB = k.slotWB := rfl
@[simp] theorem Core.setHaltWb_stopFetch (k : Core) : k.setHaltWb.stopFetch = k.stopFetch := rfl
@[simp] theorem Core.setHaltWb_halted (k : Core) : k.setHaltWb.halted = k.halted := rfl
@[simp] theorem Core.setHaltWb_redirectPending (k : Core) : k.setHaltWb.redirectPending = k.redirectPending := rfl
@[simp] theorem Core.setHaltWb_redirectTarget (k : Core) : k.setHaltWb.redirectTarget = k.redirectTarget := rfl
@[simp] theorem Core.setHaltWb_wrPending (k : Core) : k.setHaltWb.wrPending = k.wrPending := rfl
@[simp] theorem Core.setHaltWb_wrDest (k : Core) : k.setHaltWb.wrDest = k.wrDest := rfl
@[simp] theorem Core.setHaltWb_wrValue (k : Core) : k.setHaltWb.wrValue = k.wrValue := rfl
@[simp] theorem Core.setHaltWb_counters (k : Core) : k.setHaltWb.counters = k.counters := rfl
@[simp] theorem Core.setHaltWb_imem (k : Core) : k.setHaltWb.imem = k.imem := rfl
@[simp] theorem Core.setHaltWb_cache (k : Core) : k.setHaltWb.cache = k.cache := rfl
@[simp] theorem Core.setHaltWb_mbox (k : Core) : k.setHaltWb.mbox = k.mbox := rfl
@[simp] theorem Core.setHaltWb_sig_exResult (k : Core) : k.setHaltWb.sig.exResult = k.sig.exResult := rfl
@[simp] theorem Core.setHaltWb_sig_memResult (k : Core) : k.setHaltWb.sig.memResult = k.sig.memResult := rfl
@[simp] theorem Core.setHaltWb_sig_redirNow (k : Core) : k.setHaltWb.sig.redirNow = k.sig.redirNow := rfl
@[simp] theorem Core.setHaltWb_sig_redirTgtNow (k : Core) : k.setHaltWb.sig.redirTgtNow = k.sig.redirTgtNow := rfl
@[simp] theorem Core.setHaltWb_sig_haltNow (k : Core) : k.setHaltWb.sig.haltNow = k.sig.haltNow := rfl
@[simp] theorem Core.setHaltWb_sig_haltWb (k : Core) : k.setHaltWb.sig.haltWb = true := rfl
@[simp] theorem Core.setHaltWb_sig_fetchEn (k : Core) : k.setHaltWb.sig.fetchEn = k.sig.fetchEn := rfl
@[simp] theorem Core.setHaltWb_sig_pcNext (k : Core) : k.setHaltWb.sig.pcNext = k.sig.pcNext := rfl
@[simp] theorem Core.setHaltWb_sig_redirectPendingNext (k : Core) : k.setHaltWb.sig.redirectPendingNext = k.sig.redirectPendingNext := rfl
@[simp] theorem Core.setHaltWb_sig_redirectTargetNext (k : Core) : k.setHaltWb.sig.redirectTargetNext = k.sig.redirectTargetNext := rfl
@[simp] theorem Core.acknowledge_x (k : Core) : k.acknowledge.x = k.x := rfl
@[simp] theorem Core.acknowledge_pc (k : Core) : k.acknowledge.pc = k.pc := rfl
@[simp] theorem Core.acknowledge_slotIF (k : Core) : k.acknowledge.slotIF = k.slotIF := rfl
@[simp] theorem Core.acknowledge_slotID (k : Core) : k.acknowledge.slotID = k.slotID := rfl
@[simp] theorem Core.acknowledge_slotEX (k : Core) : k.acknowledge.slotEX = k.slotEX := rfl
@[simp] theorem Core.acknowledge_slotMEM (k : Core) : k.acknowledge.slotMEM = k.slotMEM := rfl
@[simp] theorem Core.acknowledge_slotWB (k : Core) : k.acknowledge.slotWB = k.slotWB := rfl
@[simp] theorem Core.acknowledge_stopFetch (k : Core) : k.acknowledge.stopFetch = k.stopFetch := rfl
@[simp] theorem Core.acknowledge_halted (k : Core) : k.acknowledge.halted = k.halted := rfl
@[simp] theorem Core.acknowledge_redirectPending (k : Core) : k.acknowledge.redirectPending = k.redirectPending := rfl
@[simp] theorem Core.acknowledge_redirectTarget (k : Core) : k.acknowledge.redirectTarget = k.redirectTarget := rfl
@[simp] theorem Core.acknowledge_wrPending (k : Core) : k.acknowledge.wrPending = k.wrPending := rfl
@[simp] theorem Core.acknowledge_wrDest (k : Core) : k.acknowledge.wrDest = k.wrDest := rfl
@[simp] theorem Core.acknowledge_wrValue (k : Core) : k.acknowledge.wrValue = k.wrValue := rfl
@[simp] theorem Core.acknowledge_counters (k : Core) : k.acknowledge.counters = k.counters := rfl
@[simp] theorem Core.acknowledge_imem (k : Core) : k.acknowledge.imem = k.imem := rfl
@[simp] theorem Core.acknowledge_cache (k : Core) : k.acknowledge.cache = k.cache := rfl
@[simp] theorem Core.acknowledge_mbox_pending (k : Core) : k.acknowledge.mbox.pending = k.mbox.pending := rfl
@[simp] theorem Core.acknowledge_mbox_done (k : Core) : k.acknowledge.mbox.done = false := rfl
@[simp] theorem Core.acknowledge_mbox_addr (k : Core) : k.acknowledge.mbox.addr = k.mbox.addr := rfl
@[simp] theorem Core.acknowledge_mbox_cmd (k : Core) : k.acknowledge.mbox.cmd = k.mbox.cmd := rfl
@[simp] theorem Core.acknowledge_mbox_requester (k : Core) : k.acknowledge.mbox.requester = k.mbox.requester := rfl
@[simp] theorem Core.acknowledge_sig (k : Core) : k.acknowledge.sig = k.sig := rfl
@[simp] theorem Core.request_x (k : Core) (a : Addr) (c : BusCmd) : (k.request a c).x = k.x := rfl
@[simp] theorem Core.request_pc (k : Core) (a : Addr) (c : BusCmd) : (k.request a c).pc = k.pc := rfl
@[simp] theorem Core.request_slotIF (k : Core) (a : Addr) (c : BusCmd) : (k.request a c).slotIF = k.slotIF := rfl
@[simp] theorem Core.request_slotID (k : Core) (a : Addr) (c : BusCmd) : (k.request a c).slotID = k.slotID := rfl
@[simp] theorem Core.request_slotEX (k : Core) (a : Addr) (c : BusCmd) : (k.request a c).slotEX = k.slotEX := rfl
@[simp] theorem Core.request_slotMEM (k : Core) (a : Addr) (c : BusCmd) : (k.request a c).slotMEM = k.slotMEM := rfl
@[simp] theorem Core.request_slotWB (k : Core) (a : Addr) (c : BusCmd) : (k.request a c).slotWB = k.slotWB := rfl
@[simp] theorem Core.request_stopFetch (k : Core) (a : Addr) (c : BusCmd) : (k.request a c).stopFetch = k.stopFetch := rfl
@[simp] theorem Core.request_halted (k : Core) (a : Addr) (c : BusCmd) : (k.request a c).halted = k.halted := rfl
@[simp] theorem Core.request_redirectPending (k : Core) (a : Addr) (c : BusCmd) : (k.request a c).redirectPending = k.redirectPending := rfl
@[simp] theorem Core.request_redirectTarget (k : Core) (a : Addr) (c : BusCmd) : (k.request a c).redirectTarget = k.redirectTarget := rfl
@[simp] theorem Core.request_wrPending (k : Core) (a : Addr) (c : BusCmd) : (k.request a c).wrPending = k.wrPending := rfl
@[simp] theorem Core.request_wrDest (k : Core) (a : Addr) (c : BusCmd) : (k.request a c).wrDest = k.wrDest := rfl
@[simp] theorem Core.request_wrValue (k : Core) (a : Addr) (c : BusCmd) : (k.request a c).wrValue = k.wrValue := rfl
@[simp] theorem Core.request_counters (k : Core) (a : Addr) (c : BusCmd) : (k.request a c).counters = k.counters := rfl
@[simp] theorem Core.request_imem (k : Core) (a : Addr) (c : BusCmd) : (k.request a c).imem = k.imem := rfl
@[simp] theorem Core.request_cache (k : Core) (a : Addr) (c : BusCmd) : (k.request a c).cache = k.cache := rfl
@[simp] theorem Core.request_mbox_pending (k : Core) (a : Addr) (c : BusCmd) : (k.request a c).mbox.pending = true := rfl
@[simp] theorem Core.request_mbox_done (k : Core) (a : Addr) (c : BusCmd) : (k.request a c).mbox.done = false := rfl
@[simp] theorem Core.request_mbox_addr (k : Core) (a : Addr) (c : BusCmd) : (k.request a c).mbox.addr = a := rfl
@[simp] theorem Core.request_mbox_cmd (k : Core) (a : Addr) (c : BusCmd) : (k.request a c).mbox.cmd = c := rfl
@[simp] theorem Core.request_mbox_requester (k : Core) (a : Addr) (c : BusCmd) : (k.request a c).mbox.requester = k.mbox.requester := rfl
@[simp] theorem Core.request_sig (k : Core) (a : Addr) (c : BusCmd) : (k.request a c).sig = k.sig := rfl
@[simp] theorem retire_x (k : Core) : (retire k).x = k.x := rfl
@[simp] theorem retire_pc (k : Core) : (retire k).pc = k.pc := rfl
@[simp] theorem retire_slotIF (k : Core) : (retire k).slotIF = k.slotIF := rfl
@[simp] theorem retire_slotID (k : Core) : (retire k).slotID = k.slotID := rfl
@[simp] theorem retire_slotEX (k : Core) : (retire k).slotEX = k.slotEX := rfl
@[simp] theorem retire_slotMEM (k : Core) : (retire k).slotMEM = k.slotMEM := rfl
@[simp] theorem retire_slotWB (k : Core) : (retire k).slotWB = k.slotWB := rfl
@[simp] theorem retire_stopFetch (k : Core) : (retire k).stopFetch = k.stopFetch := rfl
@[simp] theorem retire_halted (k : Core) : (retire k).halted = k.halted := rfl
@[simp] theorem retire_redirectPending (k : Core) : (retire k).redirectPending = k.redirectPending := rfl
@[simp] theorem retire_redirectTarget (k : Core) : (retire k).redirectTarget = k.redirectTarget := rfl
@[simp] theorem retire_wrPending (k : Core) : (retire k).wrPending = k.wrPending := rfl
@[simp] theorem retire_wrDest (k : Core) : (retire k).wrDest = k.wrDest := rfl
@[simp] theorem retire_wrValue (k : Core) : (retire k).wrValue = k.wrValue := rfl
@[simp] theorem retire_counters (k : Core) : (retire k).counters = { k.counters with instructions := k.counters.instructions + 1 } := rfl
@[simp] theorem retire_imem (k : Core) : (retire k).imem = k.imem := rfl
@[simp] theorem retire_cache (k : Core) : (retire k).cache = k.cache := rfl
@[simp] theorem retire_mbox (k : Core) : (retire k).mbox = k.mbox := rfl
@[simp] theorem retire_sig (k : Core) : (retire k).sig = k.sig := rfl
@[simp] theorem Core.clearSignals_x (k : Core) : k.clearSignals.x = k.x := rfl
@[simp] theorem Core.clearSignals_pc (k : Core) : k.clearSignals.pc = k.pc := rfl
@[simp] theorem Core.clearSignals_slotIF (k : Core) : k.clearSignals.slotIF = k.slotIF := rfl
@[simp] theorem Core.clearSignals_slotID_active (k : Core) : k.clearSignals.slotID.active = k.slotID.active := rfl
@[simp] theorem Core.clearSignals_slotID_pc (k : Core) : k.clearSignals.slotID.pc = k.slotID.pc := rfl
@[simp] theorem Core.clearSignals_slotID_raw (k : Core) : k.clearSignals.slotID.raw = k.slotID.raw := rfl
@[simp] theorem Core.clearSignals_slotID_result (k : Core) : k.clearSignals.slotID.result = k.slotID.result := rfl
@[simp] theorem Core.clearSignals_slotID_stall (k : Core) : k.clearSignals.slotID.stall = false := rfl
@[simp] theorem Core.clearSignals_slotEX (k : Core) : k.clearSignals.slotEX = k.slotEX := rfl
@[simp] theorem Core.clearSignals_slotMEM_active (k : Core) : k.clearSignals.slotMEM.active = k.slotMEM.active := rfl
@[simp] theorem Core.clearSignals_slotMEM_pc (k : Core) : k.clearSignals.slotMEM.pc = k.slotMEM.pc := rfl
@[simp] theorem Core.clearSignals_slotMEM_raw (k : Core) : k.clearSignals.slotMEM.raw = k.slotMEM.raw := rfl
@[simp] theorem Core.clearSignals_slotMEM_result (k : Core) : k.clearSignals.slotMEM.result = k.slotMEM.result := rfl
@[simp] theorem Core.clearSignals_slotMEM_stall (k : Core) : k.clearSignals.slotMEM.stall = false := rfl
@[simp] theorem Core.clearSignals_slotWB (k : Core) : k.clearSignals.slotWB = k.slotWB := rfl
@[simp] theorem Core.clearSignals_stopFetch (k : Core) : k.clearSignals.stopFetch = k.stopFetch := rfl
@[simp] theorem Core.clearSignals_halted (k : Core) : k.clearSignals.halted = k.halted := rfl
@[simp] theorem Core.clearSignals_redirectPending (k : Core) : k.clearSignals.redirectPending = k.redirectPending := rfl
@[simp] theorem Core.clearSignals_redirectTarget (k : Core) : k.clearSignals.redirectTarget = k.redirectTarget := rfl
@[simp] theorem Core.clearSignals_wrPending (k : Core) : k.clearSignals.wrPending = k.wrPending := rfl
@[simp] theorem Core.clearSignals_wrDest (k : Core) : k.clearSignals.wrDest = k.wrDest := rfl
@[simp] theorem Core.clearSignals_wrValue (k : Core) : k.clearSignals.wrValue = k.wrValue := rfl
@[simp] theorem Core.clearSignals_counters (k : Core) : k.clearSignals.counters = k.counters := rfl
@[simp] theorem Core.clearSignals_imem (k : Core) : k.clearSignals.imem = k.imem := rfl
@[simp] theorem Core.clearSignals_cache (k : Core) : k.clearSignals.cache = k.cache := rfl
@[simp] theorem Core.clearSignals_mbox (k : Core) : k.clearSignals.mbox = k.mbox := rfl
@[simp] theorem Core.clearSignals_sig (k : Core) : k.clearSignals.sig = Signals.none := rfl
@[simp] theorem edgeCounters_x (k : Core) : (edgeCounters k).x = k.x := rfl
@[simp] theorem edgeCounters_pc (k : Core) : (edgeCounters k).pc = k.pc := rfl
@[simp] theorem edgeCounters_slotIF (k : Core) : (edgeCounters k).slotIF = k.slotIF := rfl
@[simp] theorem edgeCounters_slotID (k : Core) : (edgeCounters k).slotID = k.slotID := rfl
@[simp] theorem edgeCounters_slotEX (k : Core) : (edgeCounters k).slotEX = k.slotEX := rfl
@[simp] theorem edgeCounters_slotMEM (k : Core) : (edgeCounters k).slotMEM = k.slotMEM := rfl
@[simp] theorem edgeCounters_slotWB (k : Core) : (edgeCounters k).slotWB = k.slotWB := rfl
@[simp] theorem edgeCounters_stopFetch (k : Core) : (edgeCounters k).stopFetch = k.stopFetch := rfl
@[simp] theorem edgeCounters_halted (k : Core) : (edgeCounters k).halted = k.halted := rfl
@[simp] theorem edgeCounters_redirectPending (k : Core) : (edgeCounters k).redirectPending = k.redirectPending := rfl
@[simp] theorem edgeCounters_redirectTarget (k : Core) : (edgeCounters k).redirectTarget = k.redirectTarget := rfl
@[simp] theorem edgeCounters_wrPending (k : Core) : (edgeCounters k).wrPending = k.wrPending := rfl
@[simp] theorem edgeCounters_wrDest (k : Core) : (edgeCounters k).wrDest = k.wrDest := rfl
@[simp] theorem edgeCounters_wrValue (k : Core) : (edgeCounters k).wrValue = k.wrValue := rfl
@[simp] theorem edgeCounters_imem (k : Core) : (edgeCounters k).imem = k.imem := rfl
@[simp] theorem edgeCounters_cache (k : Core) : (edgeCounters k).cache = k.cache := rfl
@[simp] theorem edgeCounters_mbox (k : Core) : (edgeCounters k).mbox = k.mbox := rfl
@[simp] theorem edgeCounters_sig (k : Core) : (edgeCounters k).sig = k.sig := rfl
@[simp] theorem edgeCommit_pc (k : Core) : (edgeCommit k).pc = k.pc := rfl
@[simp] theorem edgeCommit_slotIF (k : Core) : (edgeCommit k).slotIF = k.slotIF := rfl
@[simp] theorem edgeCommit_slotID (k : Core) : (edgeCommit k).slotID = k.slotID := rfl
@[simp] theorem edgeCommit_slotEX (k : Core) : (edgeCommit k).slotEX = k.slotEX := rfl
@[simp] theorem edgeCommit_slotMEM (k : Core) : (edgeCommit k).slotMEM = k.slotMEM := rfl
@[simp] theorem edgeCommit_slotWB (k : Core) : (edgeCommit k).slotWB = k.slotWB := rfl
@[simp] theorem edgeCommit_stopFetch (k : Core) : (edgeCommit k).stopFetch = k.stopFetch := rfl
@[simp] theorem edgeCommit_halted (k : Core) : (edgeCommit k).halted = k.halted := rfl
@[simp] theorem edgeCommit_redirectPending (k : Core) : (edgeCommit k).redirectPending = k.redirectPending := rfl
@[simp] theorem edgeCommit_redirectTarget (k : Core) : (edgeCommit k).redirectTarget = k.redirectTarget := rfl
@[simp] theorem edgeCommit_counters (k : Core) : (edgeCommit k).counters = k.counters := rfl
@[simp] theorem edgeCommit_imem (k : Core) : (edgeCommit k).imem = k.imem := rfl
@[simp] theorem edgeCommit_cache (k : Core) : (edgeCommit k).cache = k.cache := rfl
@[simp] theorem edgeCommit_mbox (k : Core) : (edgeCommit k).mbox = k.mbox := rfl
@[simp] theorem edgeCommit_sig (k : Core) : (edgeCommit k).sig = k.sig := rfl
@[simp] theorem edgeLatches_x (k : Core) : (edgeLatches k).x = k.x := rfl
@[simp] theorem edgeLatches_slotIF (k : Core) : (edgeLatches k).slotIF = k.slotIF := rfl
@[simp] theorem edgeLatches_slotID (k : Core) : (edgeLatches k).slotID = k.slotID := rfl
@[simp] theorem edgeLatches_slotEX (k : Core) : (edgeLatches k).slotEX = k.slotEX := rfl
@[simp] theorem edgeLatches_slotMEM (k : Core) : (edgeLatches k).slotMEM = k.slotMEM := rfl
@[simp] theorem edgeLatches_slotWB (k : Core) : (edgeLatches k).slotWB = k.slotWB := rfl
@[simp] theorem edgeLatches_wrPending (k : Core) : (edgeLatches k).wrPending = k.wrPending := rfl
@[simp] theorem edgeLatches_wrDest (k : Core) : (edgeLatches k).wrDest = k.wrDest := rfl
@[simp] theorem edgeLatches_wrValue (k : Core) : (edgeLatches k).wrValue = k.wrValue := rfl
@[simp] theorem edgeLatches_counters (k : Core) : (edgeLatches k).counters = k.counters := rfl
@[simp] theorem edgeLatches_imem (k : Core) : (edgeLatches k).imem = k.imem := rfl
@[simp] theorem edgeLatches_cache (k : Core) : (edgeLatches k).cache = k.cache := rfl
@[simp] theorem edgeLatches_mbox (k : Core) : (edgeLatches k).mbox = k.mbox := rfl
@[simp] theorem edgeLatches_sig (k : Core) : (edgeLatches k).sig = k.sig := rfl
@[simp] theorem edgeCommit_x (k : Core) : (edgeCommit k).x = committedRegs k := rfl
@[simp] theorem edgeCommit_wrPending (k : Core) : (edgeCommit k).wrPending = false := rfl
@[simp] theorem edgeCommit_wrDest (k : Core) : (edgeCommit k).wrDest = 0 := rfl
@[simp] theorem edgeCommit_wrValue (k : Core) : (edgeCommit k).wrValue = 0 := rfl
@[simp] theorem edgeLatches_pc (k : Core) : (edgeLatches k).pc = k.sig.pcNext := rfl
@[simp] theorem edgeLatches_redirectPending (k : Core) : (edgeLatches k).redirectPending = k.sig.redirectPendingNext := rfl
@[simp] theorem edgeLatches_redirectTarget (k : Core) : (edgeLatches k).redirectTarget = k.sig.redirectTargetNext := rfl
@[simp] theorem edgeLatches_stopFetch (k : Core) : (edgeLatches k).stopFetch = (k.stopFetch || k.sig.haltNow) := rfl
@[simp] theorem edgeLatches_halted (k : Core) : (edgeLatches k).halted = (k.halted || k.sig.haltWb) := rfl

/-! ## Bus updates -/

@[simp] theorem Bus.resetWires_cmd (b : Bus) : b.resetWires.cmd = .none := rfl
@[simp] theorem Bus.resetWires_addr (b : Bus) : b.resetWires.addr = 0 := rfl
@[simp] theorem Bus.resetWires_origid (b : Bus) : b.resetWires.origid = 0 := rfl
@[simp] theorem Bus.resetWires_shared (b : Bus) : b.resetWires.shared = false := rfl
@[simp] theorem Bus.resetWires_data (b : Bus) : b.resetWires.data = 0 := rfl
@[simp] theorem Bus.resetWires_cooldown (b : Bus) : b.resetWires.cooldown = b.cooldown := rfl
@[simp] theorem Bus.resetWires_cursor (b : Bus) : b.resetWires.cursor = b.cursor := rfl
@[simp] theorem Bus.resetWires_busy (b : Bus) : b.resetWires.busy = b.busy := rfl
@[simp] theorem Bus.resetWires_lastGranted (b : Bus) : b.resetWires.lastGranted = b.lastGranted := rfl
@[simp] theorem Bus.resetWires_postFlush (b : Bus) : b.resetWires.postFlush = b.postFlush := rfl
@[simp] theorem Bus.grant_cmd (b : Bus) (c : BusCmd) (a : Addr) (r : CoreId) : (b.grant c a r).cmd = c := rfl
@[simp] theorem Bus.grant_addr (b : Bus) (c : BusCmd) (a : Addr) (r : CoreId) : (b.grant c a r).addr = a := rfl
@[simp] theorem Bus.grant_origid (b : Bus) (c : BusCmd) (a : Addr) (r : CoreId) : (b.grant c a r).origid = r := rfl
@[simp] theorem Bus.grant_shared (b : Bus) (c : BusCmd) (a : Addr) (r : CoreId) : (b.grant c a r).shared = b.shared := rfl
@[simp] theorem Bus.grant_data (b : Bus) (c : BusCmd) (a : Addr) (r : CoreId) : (b.grant c a r).data = b.data := rfl
@[simp] theorem Bus.grant_cooldown (b : Bus) (c : BusCmd) (a : Addr) (r : CoreId) : (b.grant c a r).cooldown = Config.busLatency := rfl
@[simp] theorem Bus.grant_cursor (b : Bus) (c : BusCmd) (a : Addr) (r : CoreId) : (b.grant c a r).cursor = 0 := rfl
@[simp] theorem Bus.grant_busy (b : Bus) (c : BusCmd) (a : Addr) (r : CoreId) : (b.grant c a r).busy = true := rfl
@[simp] theorem Bus.grant_lastGranted (b : Bus) (c : BusCmd) (a : Addr) (r : CoreId) : (b.grant c a r).lastGranted = b.lastGranted := rfl
@[simp] theorem Bus.grant_postFlush (b : Bus) (c : BusCmd) (a : Addr) (r : CoreId) : (b.grant c a r).postFlush = b.postFlush := rfl
@[simp] theorem Bus.startFlush_cmd (b : Bus) (r : CoreId) (a : Addr) (m : Mesi) : (b.startFlush r a m).cmd = .flush := rfl
@[simp] theorem Bus.startFlush_addr (b : Bus) (r : CoreId) (a : Addr) (m : Mesi) : (b.startFlush r a m).addr = a := rfl
@[simp] theorem Bus.startFlush_origid (b : Bus) (r : CoreId) (a : Addr) (m : Mesi) : (b.startFlush r a m).origid = r := rfl
@[simp] theorem Bus.startFlush_shared (b : Bus) (r : CoreId) (a : Addr) (m : Mesi) : (b.startFlush r a m).shared = b.shared := rfl
@[simp] theorem Bus.startFlush_data (b : Bus) (r : CoreId) (a : Addr) (m : Mesi) : (b.startFlush r a m).data = b.data := rfl
@[simp] theorem Bus.startFlush_cooldown (b : Bus) (r : CoreId) (a : Addr) (m : Mesi) : (b.startFlush r a m).cooldown = 0 := rfl
@[simp] theorem Bus.startFlush_cursor (b : Bus) (r : CoreId) (a : Addr) (m : Mesi) : (b.startFlush r a m).cursor = 0 := rfl
@[simp] theorem Bus.startFlush_busy (b : Bus) (r : CoreId) (a : Addr) (m : Mesi) : (b.startFlush r a m).busy = true := rfl
@[simp] theorem Bus.startFlush_lastGranted (b : Bus) (r : CoreId) (a : Addr) (m : Mesi) : (b.startFlush r a m).lastGranted = b.lastGranted := rfl
@[simp] theorem Bus.startFlush_postFlush (b : Bus) (r : CoreId) (a : Addr) (m : Mesi) : (b.startFlush r a m).postFlush = m := rfl
@[simp] theorem Bus.advanceCursor_cmd (b : Bus) (w : Word) : (b.advanceCursor w).cmd = b.cmd := rfl
@[simp] theorem Bus.advanceCursor_addr (b : Bus) (w : Word) : (b.advanceCursor w).addr = b.addr := rfl
@[simp] theorem Bus.advanceCursor_origid (b : Bus) (w : Word) : (b.advanceCursor w).origid = b.origid := rfl
@[simp] theorem Bus.advanceCursor_shared (b : Bus) (w : Word) : (b.advanceCursor w).shared = b.shared := rfl
@[simp] theorem Bus.advanceCursor_data (b : Bus) (w : Word) : (b.advanceCursor w).data = w := rfl
@[simp] theorem Bus.advanceCursor_cooldown (b : Bus) (w : Word) : (b.advanceCursor w).cooldown = b.cooldown := rfl
@[simp] theorem Bus.advanceCursor_cursor (b : Bus) (w : Word) : (b.advanceCursor w).cursor = b.cursor + 1 := rfl
@[simp] theorem Bus.advanceCursor_busy (b : Bus) (w : Word) : (b.advanceCursor w).busy = b.busy := rfl
@[simp] theorem Bus.advanceCursor_lastGranted (b : Bus) (w : Word) : (b.advanceCursor w).lastGranted = b.lastGranted := rfl
@[simp] theorem Bus.advanceCursor_postFlush (b : Bus) (w : Word) : (b.advanceCursor w).postFlush = b.postFlush := rfl

/-! ## State updates -/

@[simp] theorem State.onCore_bus (s : State) (c : CoreId) (f : Core → Core) : (s.onCore c f).bus = s.bus := rfl
@[simp] theorem State.onCore_mem (s : State) (c : CoreId) (f : Core → Core) : (s.onCore c f).mem = s.mem := rfl
@[simp] theorem State.onCore_cycle (s : State) (c : CoreId) (f : Core → Core) : (s.onCore c f).cycle = s.cycle := rfl
@[simp] theorem State.onCore_focus (s : State) (c : CoreId) (f : Core → Core) : (s.onCore c f).focus = s.focus := rfl
@[simp] theorem State.onEveryCore_bus (s : State) (f : Core → Core) : (s.onEveryCore f).bus = s.bus := rfl
@[simp] theorem State.onEveryCore_mem (s : State) (f : Core → Core) : (s.onEveryCore f).mem = s.mem := rfl
@[simp] theorem State.onEveryCore_cycle (s : State) (f : Core → Core) : (s.onEveryCore f).cycle = s.cycle := rfl
@[simp] theorem State.onEveryCore_focus (s : State) (f : Core → Core) : (s.onEveryCore f).focus = s.focus := rfl
@[simp] theorem State.withFocus_cores (s : State) (f : Focus) : (s.withFocus f).cores = s.cores := rfl
@[simp] theorem State.withFocus_bus (s : State) (f : Focus) : (s.withFocus f).bus = s.bus := rfl
@[simp] theorem State.withFocus_mem (s : State) (f : Focus) : (s.withFocus f).mem = s.mem := rfl
@[simp] theorem State.withFocus_cycle (s : State) (f : Focus) : (s.withFocus f).cycle = s.cycle := rfl
@[simp] theorem State.onBus_cores (s : State) (f : Bus → Bus) : (s.onBus f).cores = s.cores := rfl
@[simp] theorem State.onBus_mem (s : State) (f : Bus → Bus) : (s.onBus f).mem = s.mem := rfl
@[simp] theorem State.onBus_cycle (s : State) (f : Bus → Bus) : (s.onBus f).cycle = s.cycle := rfl
@[simp] theorem State.onBus_focus (s : State) (f : Bus → Bus) : (s.onBus f).focus = s.focus := rfl
@[simp] theorem State.onFocus_bus (s : State) (f : Stage → Core → Core) : (s.onFocus f).bus = s.bus := rfl
@[simp] theorem State.onFocus_mem (s : State) (f : Stage → Core → Core) : (s.onFocus f).mem = s.mem := rfl
@[simp] theorem State.onFocus_cycle (s : State) (f : Stage → Core → Core) : (s.onFocus f).cycle = s.cycle := rfl
@[simp] theorem State.onFocus_focus (s : State) (f : Stage → Core → Core) : (s.onFocus f).focus = s.focus := rfl
@[simp] theorem State.setLineState_bus (s : State) (c : CoreId) (i : LineIndex) (m : Mesi) : (s.setLineState c i m).bus = s.bus := rfl
@[simp] theorem State.setLineState_mem (s : State) (c : CoreId) (i : LineIndex) (m : Mesi) : (s.setLineState c i m).mem = s.mem := rfl
@[simp] theorem State.setLineState_cycle (s : State) (c : CoreId) (i : LineIndex) (m : Mesi) : (s.setLineState c i m).cycle = s.cycle := rfl
@[simp] theorem State.setLineState_focus (s : State) (c : CoreId) (i : LineIndex) (m : Mesi) : (s.setLineState c i m).focus = s.focus := rfl
@[simp] theorem State.withFocus_focus (s : State) (f : Focus) : (s.withFocus f).focus = f := rfl
@[simp] theorem State.onBus_bus (s : State) (f : Bus → Bus) : (s.onBus f).bus = f s.bus := rfl
@[simp] theorem State.withFocus_core (s : State) (f : Focus) (c : CoreId) : (s.withFocus f).core c = s.core c := rfl
@[simp] theorem State.onBus_core (s : State) (f : Bus → Bus) (c : CoreId) : (s.onBus f).core c = s.core c := rfl
@[simp] theorem endCycle_bus (s : State) : (endCycle s).bus = s.bus := rfl
@[simp] theorem endCycle_mem (s : State) : (endCycle s).mem = s.mem := rfl
@[simp] theorem endCycle_cycle (s : State) : (endCycle s).cycle = s.cycle + 1 := rfl
@[simp] theorem endCycle_focus (s : State) : (endCycle s).focus = Focus.rest := rfl
@[simp] theorem fillWord_mem (s : State) : (fillWord s).mem = s.mem := rfl
@[simp] theorem finalizeFill_mem (s : State) (m : Mesi) : (finalizeFill s m).mem = s.mem := rfl
@[simp] theorem finalizeFlush_mem (s : State) : (finalizeFlush s).mem = s.mem := rfl

/-! ## Reading a core after an update of one core -/

@[simp] theorem State.core_onCore_same (s : State) (c : CoreId) (f : Core → Core) :
    (s.onCore c f).core c = f (s.core c) := by
  simp [State.core, State.onCore]

theorem State.core_onCore_other (s : State) (c d : CoreId) (f : Core → Core) (h : d ≠ c) :
    (s.onCore c f).core d = s.core d := by
  have : (c : Nat) ≠ d := fun e => h (Fin.ext e.symm)
  simp [State.core, State.onCore, this]

theorem State.core_onCore (s : State) (c d : CoreId) (f : Core → Core) :
    (s.onCore c f).core d = if d = c then f (s.core c) else s.core d := by
  by_cases h : d = c
  · subst h; simp
  · simp [h, State.core_onCore_other]

@[simp] theorem State.core_onEveryCore (s : State) (c : CoreId) (f : Core → Core) :
    (s.onEveryCore f).core c = f (s.core c) := by
  simp [State.core, State.onEveryCore]

@[simp] theorem State.core_endCycle (s : State) (c : CoreId) : (endCycle s).core c = clockEdge (s.core c) :=
  State.core_onEveryCore s c clockEdge

/-- Two states are equal when their cores and their other fields are. -/
theorem State.ext_cores {s t : State} (hc : ∀ c, s.core c = t.core c) (hb : s.bus = t.bus) (hm : s.mem = t.mem)
    (hy : s.cycle = t.cycle) (hf : s.focus = t.focus) : s = t := by
  obtain ⟨sc, _, _, _, _⟩ := s
  obtain ⟨tc, _, _, _, _⟩ := t
  have : sc = tc := Vector.ext fun i hi => hc ⟨i, hi⟩
  simp_all

@[simp] theorem andThen_next (s : State) (f : State → Host.Outcome State Fault Refusal) :
    andThen (.next s) f = f s := rfl

/-- What a sequence of two parts can do when it answers a next state. -/
theorem andThen_eq_next {o : Host.Outcome State Fault Refusal} {f : State → Host.Outcome State Fault Refusal} {t : State}
    (h : andThen o f = .next t) : ∃ s, o = .next s ∧ f s = .next t := by
  cases o with
  | next s => exact ⟨s, rfl, h⟩
  | fault r => cases h
  | refused r => cases h

end Sys2Proof.Machine
end

