-- ==== Sys2Proof/Laws/Params.lean ====
section
/-!
SUPPORT. The definitions that use a parameter of rule R7, at the values Config.lean gives: what a proof that needs the
numbers rewrites with. Each holds by evaluation; a change of a parameter changes these lines and no rule.
-/

namespace Sys2Proof.Machine

theorem addrOffset_value (a : Addr) : addrOffset a = (a.extractLsb' 0 2).toFin := rfl
theorem addrIndex_value (a : Addr) : addrIndex a = (a.extractLsb' 2 6).toFin := rfl
theorem addrTag_value (a : Addr) : addrTag a = a.extractLsb' 8 12 := rfl
theorem wordAddr_value (t : Tag) (i : LineIndex) (o : Offset) :
    wordAddr t i o = t ++ (BitVec.ofFin i : BitVec 6) ++ (BitVec.ofFin o : BitVec 2) := rfl
theorem blockBase_value (a : Addr) : blockBase a = a.extractLsb' 2 18 ++ (0 : BitVec 2) := rfl
theorem addrOfWord_value (v : Word) : addrOfWord v = v.setWidth 20 := rfl
theorem branchTarget_value (v : Word) : branchTarget v = v.setWidth 10 := rfl
theorem linkValue_value (pc : Pc) : linkValue pc = (pc + 1).setWidth 32 := rfl
theorem transferAddr_value (b : Bus) : transferAddr b = blockBase b.addr + BitVec.ofNat 20 b.cursor := rfl
theorem allCores_value : allCores = [0, 1, 2, 3] := by decide
theorem scanOrder_value (last : CoreId) : scanOrder last = [last + 1, last + 2, last + 3, last] := by
  revert last; decide
theorem reset_lastGranted : State.reset.bus.lastGranted = 3 := rfl
theorem reset_cores : State.reset.cores = #v[Core.reset 0, Core.reset 1, Core.reset 2, Core.reset 3] := rfl

/-- After reset every core is at its reset value (R53). -/
@[simp] theorem reset_core (c : CoreId) : State.reset.core c = Core.reset c := by
  simp [State.core, State.reset]

theorem encodeFields_value (op : BitVec 8) (rd rs rt : RegNum) (imm : Word) :
    encodeFields op rd rs rt imm =
      op ++ (BitVec.ofFin rd : BitVec 4) ++ (BitVec.ofFin rs : BitVec 4) ++ (BitVec.ofFin rt : BitVec 4) ++
        imm.extractLsb' 0 12 := BitVec.setWidth_eq _

/-! The ranges of the word types, for arithmetic on their values. -/

theorem word_toNat_lt (v : Word) : v.toNat < 2 ^ 32 := v.isLt
theorem addr_toNat_lt (a : Addr) : a.toNat < 2 ^ 20 := a.isLt
theorem pc_toNat_lt (p : Pc) : p.toNat < 2 ^ 10 := p.isLt
theorem tag_toNat_lt (t : Tag) : t.toNat < 2 ^ 12 := t.isLt
theorem lineIndex_lt (i : LineIndex) : i.val < 64 := i.isLt
theorem offset_lt (o : Offset) : o.val < 4 := o.isLt
theorem coreId_lt (c : CoreId) : c.val < 4 := c.isLt
theorem regNum_lt (n : RegNum) : n.val < 16 := n.isLt

/-- R92: the range of the immediate. -/
theorem immInRange_value (v : Word) : immInRange v = true ↔ -2048 ≤ v.toInt ∧ v.toInt ≤ 2047 := by
  rw [immInRange, Bool.and_eq_true, decide_eq_true_eq, decide_eq_true_eq]
  show -2048 ≤ v.toInt ∧ v.toInt < 2048 ↔ _
  omega

/-- The stages of R31 are the `STAGES` of R7, each evaluated once in a cycle (R170). -/
theorem stageOrder_length : stageOrder.length = Config.stageCount := rfl

/-- Every core's every stage is evaluated in a cycle (R300). -/
theorem schedule_length : schedule.length = Config.coreCount * Config.stageCount := by decide

end Sys2Proof.Machine
end

