-- ==== Sys2Proof/Laws/Exec.lean ====
section
/-!
SUPPORT. What `exec` can do, said once: it answers a next state in which one stage function has been applied to the core
under evaluation (R301), and which function that is for each instruction.
-/

namespace Sys2Proof.Machine

/-- The stage functions of an instruction. -/
def instrStages : Instr → Stage → Core → Core
  | .add rd rs rt imm => aluStages aluAdd rd rs rt imm
  | .sub rd rs rt imm => aluStages aluSub rd rs rt imm
  | .and rd rs rt imm => aluStages aluAnd rd rs rt imm
  | .or rd rs rt imm => aluStages aluOr rd rs rt imm
  | .xor rd rs rt imm => aluStages aluXor rd rs rt imm
  | .mul rd rs rt imm => aluStages aluMul rd rs rt imm
  | .sll rd rs rt imm => aluStages aluSll rd rs rt imm
  | .sra rd rs rt imm => aluStages aluSra rd rs rt imm
  | .srl rd rs rt imm => aluStages aluSrl rd rs rt imm
  | .beq rd rs rt imm => branchStages takenBeq rd rs rt imm
  | .bne rd rs rt imm => branchStages takenBne rd rs rt imm
  | .blt rd rs rt imm => branchStages takenBlt rd rs rt imm
  | .bgt rd rs rt imm => branchStages takenBgt rd rs rt imm
  | .ble rd rs rt imm => branchStages takenBle rd rs rt imm
  | .bge rd rs rt imm => branchStages takenBge rd rs rt imm
  | .jal rd rs rt imm => jalStages rd rs rt imm
  | .lw rd rs rt imm => lwStages rd rs rt imm
  | .sw rd rs rt imm => swStages rd rs rt imm
  | .halt _ rs rt _ => haltStages rs rt

/-- `exec` applies the instruction's stage function to the core under evaluation and answers a next state. -/
theorem exec_eq (i : Instr) (s : State) : exec i s = .next (s.onFocus (instrStages i)) := by
  cases i <;> rfl

/-- The registers the decode stage of an instruction is checked on (R174). -/
def instrSrcs : Instr → List RegNum
  | .add _ rs rt _ => [rs, rt]
  | .sub _ rs rt _ => [rs, rt]
  | .and _ rs rt _ => [rs, rt]
  | .or _ rs rt _ => [rs, rt]
  | .xor _ rs rt _ => [rs, rt]
  | .mul _ rs rt _ => [rs, rt]
  | .sll _ rs rt _ => [rs, rt]
  | .sra _ rs rt _ => [rs, rt]
  | .srl _ rs rt _ => [rs, rt]
  | .lw _ rs rt _ => [rs, rt]
  | .halt _ rs rt _ => [rs, rt]
  | .beq rd rs rt _ => [rs, rt, rd]
  | .bne rd rs rt _ => [rs, rt, rd]
  | .blt rd rs rt _ => [rs, rt, rd]
  | .bgt rd rs rt _ => [rs, rt, rd]
  | .ble rd rs rt _ => [rs, rt, rd]
  | .bge rd rs rt _ => [rs, rt, rd]
  | .jal rd rs rt _ => [rs, rt, rd]
  | .sw rd rs rt _ => [rs, rt, rd]

/-- Every instruction's fetch stage is the same (R195). -/
theorem instrStages_fetch (i : Instr) (k : Core) : instrStages i .fetch k = fetchStage k := by
  cases i <;> rfl

/-- What the execute stage of an instruction can do: drive `ex_result` (R186). -/
theorem instrStages_execute (i : Instr) (k : Core) : ∃ v, instrStages i .execute k = k.setExResult v := by
  cases i <;> exact ⟨_, rfl⟩

/-- What the decode stage of an instruction can do (R182, R183): raise the stall flag, or else nothing, or drive the
redirect, or drive `halt_now`. -/
theorem instrStages_decode (i : Instr) (k : Core) :
    (hazard k (instrSrcs i) = true ∧ instrStages i .decode k = k.setDecStall true) ∨
    (hazard k (instrSrcs i) = false ∧
      (instrStages i .decode k = k ∨ (∃ b t, instrStages i .decode k = k.setRedirect b t) ∨
        instrStages i .decode k = k.setHaltNow)) := by
  cases i <;>
    simp only [instrStages, aluStages, branchStages, jalStages, lwStages, swStages, haltStages, decodeStage, instrSrcs,
      id_eq] <;>
    split <;> first
      | exact .inl ⟨by assumption, rfl⟩
      | exact .inr ⟨(Bool.not_eq_true _).mp (by assumption), .inl rfl⟩
      | exact .inr ⟨(Bool.not_eq_true _).mp (by assumption), .inr (.inl ⟨_, _, rfl⟩)⟩
      | exact .inr ⟨(Bool.not_eq_true _).mp (by assumption), .inr (.inr rfl)⟩

/-- What the memory stage of an instruction can do (R190 to R193): pass, or access the cache as a load or a store. -/
theorem instrStages_memory (i : Instr) (k : Core) :
    instrStages i .memory k = passMemory k ∨ (i.op = 16 ∧ instrStages i .memory k = loadStage k) ∨
      (i.op = 17 ∧ instrStages i .memory k = storeStage (opval k i.rd i.imm) k) := by
  cases i <;> first
    | exact .inl rfl
    | exact .inr (.inl ⟨rfl, rfl⟩)
    | exact .inr (.inr ⟨rfl, rfl⟩)

/-- What the writeback stage of an instruction can do (R196): retire, with a register write, or with the halt signal
for `halt`. -/
theorem instrStages_writeback (i : Instr) (k : Core) :
    instrStages i .writeback k = retire k ∨ (∃ d, instrStages i .writeback k = writeback d k) ∨
      (i.op = 20 ∧ instrStages i .writeback k = (retire k).setHaltWb) := by
  cases i <;> first
    | exact .inl rfl
    | exact .inr (.inl ⟨_, rfl⟩)
    | exact .inr (.inl ⟨15, rfl⟩)
    | exact .inr (.inr ⟨rfl, rfl⟩)

end Sys2Proof.Machine
end

