-- ==== Sys2Proof/Laws/Cycle.lean ====
section
/-!
SUPPORT. The evaluation phase of a cycle, core by core: each core's evaluation is a function of that core alone (R301),
so the phase applies one function to every core, and a step is that, the controller step, and the clock edge (R300).
-/

namespace Sys2Proof.Machine

/-- The evaluation of one stage, as a function of the core. -/
def evalStageCore (st : Stage) (k : Core) : Core :=
  match stageWord k st with
  | none => bubbleStages st k
  | some w =>
    match decode w with
    | .ok i => instrStages i st k
    | .error _ => idleStages (decodeRecord w).rs (decodeRecord w).rt st k

/-- The evaluation of one core in one cycle, in the order of R170. -/
def evalCore (k : Core) : Core :=
  evalStageCore .fetch (evalStageCore .decode (evalStageCore .execute (evalStageCore .memory (evalStageCore .writeback k))))

/-- A stage evaluation answers a next state in which the core under evaluation has been evaluated. -/
theorem evalStage_eq (f : Focus) (s : State) :
    evalStage f s = .next ((s.withFocus f).onCore f.core (evalStageCore f.stage)) := by
  simp only [evalStage, evalStageCore, State.onCore]
  cases hw : stageWord (s.core f.core) f.stage with
  | none => simp [runBubble, State.onFocus, State.onCore, State.core] at hw ⊢; simp [hw]
  | some w =>
    cases hd : decode w with
    | ok i => simp [exec_eq, State.onFocus, State.onCore, State.core] at hw ⊢; simp [hw, hd]
    | error e => simp [runUnknown, State.onFocus, State.onCore, State.core] at hw ⊢; simp [hw, hd]

/-- One stage evaluation as a state transformer. -/
def evalFocus (s : State) (f : Focus) : State := (s.withFocus f).onCore f.core (evalStageCore f.stage)

/-- Stage evaluations never stop. -/
theorem evalStages_eq (fs : List Focus) (s : State) :
    evalStages fs s = .next (fs.foldl evalFocus s) := by
  induction fs generalizing s with
  | nil => rfl
  | cons f fs ih => simp [evalStages, evalStage_eq, ih, evalFocus]

/-- A core after a sequence of stage evaluations has been through its own stages among them, in their order. -/
theorem core_foldl_evalFocus (fs : List Focus) (s : State) (c : CoreId) :
    (fs.foldl evalFocus s).core c =
      ((fs.filter fun f => f.core = c).map Focus.stage).foldl (fun k st => evalStageCore st k) (s.core c) := by
  induction fs generalizing s with
  | nil => rfl
  | cons f fs ih =>
    rw [List.foldl_cons, ih]
    by_cases h : f.core = c
    · subst h; simp [evalFocus]
    · have : c ≠ f.core := fun e => h e.symm
      simp [evalFocus, h, State.core_onCore_other _ _ _ _ this]

/-- Stage evaluations touch no field but the cores and the focus. -/
theorem frame_foldl_evalFocus (fs : List Focus) (s : State) :
    (fs.foldl evalFocus s).bus = s.bus ∧ (fs.foldl evalFocus s).mem = s.mem ∧
      (fs.foldl evalFocus s).cycle = s.cycle ∧ (fs.foldl evalFocus s).focus = (fs.getLast?.getD s.focus) := by
  induction fs generalizing s with
  | nil => simp
  | cons f fs ih =>
    have h := ih (evalFocus s f)
    refine ⟨h.1, h.2.1, h.2.2.1, ?_⟩
    rw [List.foldl_cons, h.2.2.2, List.getLast?_cons]
    cases fs.getLast? <;> rfl

/-- The stages of one core in the schedule are the five stages in their order. -/
theorem schedule_stages (c : CoreId) : ((schedule.filter fun f => f.core = c).map Focus.stage) = stageOrder := by
  revert c; decide

/-- The whole evaluation phase applies `evalCore` to every core. -/
theorem evalStages_schedule (s : State) :
    evalStages schedule s = .next ((s.onEveryCore evalCore).withFocus { core := 3, stage := .fetch }) := by
  have hc : ∀ c, (schedule.foldl evalFocus s).core c = evalCore (s.core c) := fun c => by
    rw [core_foldl_evalFocus, schedule_stages]; rfl
  have hl : schedule.getLast? = some { core := 3, stage := .fetch } := by decide
  have hf := frame_foldl_evalFocus schedule s
  rw [hl] at hf
  rw [evalStages_eq]
  generalize schedule.foldl evalFocus s = u at hc hf ⊢
  obtain ⟨hb, hm, hy, hx⟩ := hf
  exact congrArg _ (State.ext_cores (fun c => by simp [hc]) (by simpa using hb) (by simpa using hm) (by simpa using hy)
    (by simpa using hx))

/-- The state the controller step of a cycle starts from. -/
def evaluated (s : State) : State :=
  ((beginCycle s).onEveryCore evalCore).withFocus { core := 3, stage := .fetch }

@[simp] theorem evaluated_core (s : State) (c : CoreId) : (evaluated s).core c = evalCore (s.core c).clearSignals := by
  simp [evaluated, beginCycle]

@[simp] theorem evaluated_bus (s : State) : (evaluated s).bus = s.bus := rfl
@[simp] theorem evaluated_mem (s : State) : (evaluated s).mem = s.mem := rfl
@[simp] theorem evaluated_cycle (s : State) : (evaluated s).cycle = s.cycle := rfl

theorem beforeEdge_eq (s : State) : beforeEdge s = busStep (evaluated s) := by
  simp [beforeEdge, evalStages_schedule, evaluated]

/-- A step is the controller step on the evaluated cores, then the clock edge. -/
theorem step_eq (s : State) : step s = andThen (busStep (evaluated s)) fun t => .next (endCycle t) := by
  simp [step, cycleStep, beforeEdge_eq]

/-- What a step can do: if it answers a next state, the controller answered one and the edge was taken. -/
theorem step_next {s t : State} (h : step s = .next t) : ∃ u, busStep (evaluated s) = .next u ∧ t = endCycle u := by
  rw [step_eq] at h
  obtain ⟨u, hu, ht⟩ := andThen_eq_next h
  exact ⟨u, hu, by cases ht; rfl⟩

end Sys2Proof.Machine
end

