-- ==== Sys2Proof/Laws/Memory.lean ====
section
/-!
SUPPORT. The word memory: reading after writing, and that every operation keeps the canonical form.
-/

namespace Sys2Proof.Machine

@[simp] theorem Memory.read_nil (a : Nat) : Memory.read [] a = 0 := rfl

theorem Memory.wf_nil (n : Nat) : Memory.wf n [] := by simp [Memory.wf]

/-- The canonical form of a nonempty list: its head is in range and not zero, everything behind it lies higher. -/
theorem Memory.wf_cons {n b : Nat} {w : Word} {m : Memory} :
    Memory.wf n ((b, w) :: m) ↔ (∀ e ∈ m, b < e.1) ∧ b < n ∧ w ≠ 0#32 ∧ Memory.wf n m := by
  simp only [Memory.wf, List.pairwise_cons, List.mem_cons, forall_eq_or_imp]
  tauto

/-- An address below every listed one reads as an unlisted address does. -/
theorem Memory.read_below {m : Memory} {a : Nat} (h : ∀ e ∈ m, a < e.1) : m.read a = 0 := by
  induction m with
  | nil => rfl
  | cons e m ih =>
    have ha : a ≠ e.1 := by have := h e (by simp); omega
    simp [Memory.read, ha, ih fun f hf => h f (by simp [hf])]

/-- A written address reads back what was written. -/
theorem Memory.read_write_same {n : Nat} {m : Memory} (h : Memory.wf n m) (a : Nat) (v : Word) :
    (m.write a v).read a = v := by
  induction m with
  | nil => by_cases hv : v = 0#32 <;> simp [Memory.write, Memory.read, hv]
  | cons e m ih =>
    obtain ⟨b, w⟩ := e
    obtain ⟨hb, -, -, hm⟩ := Memory.wf_cons.1 h
    by_cases hab : a < b
    · have hn : a ≠ b := by omega
      have h0 : Memory.read m a = 0 := Memory.read_below fun e he => by have := hb e he; omega
      by_cases hv : v = 0#32 <;> simp [Memory.write, Memory.read, hab, hn, hv, h0]
    · by_cases he : a = b
      · subst he
        by_cases hv : v = 0#32
        · simp [Memory.write, hv, Memory.read_below hb]
        · simp [Memory.write, Memory.read, hv]
      · simp [Memory.write, Memory.read, hab, he, ih hm]

/-- Every other address reads as before. -/
theorem Memory.read_write_other (m : Memory) {a c : Nat} (v : Word) (h : c ≠ a) : (m.write a v).read c = m.read c := by
  induction m with
  | nil => by_cases hv : v = 0#32 <;> simp [Memory.write, Memory.read, hv, h]
  | cons e m ih =>
    obtain ⟨b, w⟩ := e
    by_cases hab : a < b
    · by_cases hv : v = 0#32 <;> simp [Memory.write, Memory.read, hab, hv, h]
    · by_cases he : a = b
      · subst he
        by_cases hv : v = 0#32 <;> simp [Memory.write, Memory.read, hv, h]
      · simp [Memory.write, Memory.read, hab, he, ih]

/-- The addresses a write can list: those listed before and the written one. -/
theorem Memory.mem_write {m : Memory} {a : Nat} {v : Word} {e : Nat × Word} (h : e ∈ m.write a v) :
    e ∈ m ∨ (e = (a, v) ∧ v ≠ 0) := by
  induction m with
  | nil =>
    by_cases hv : v = 0#32
    · simp [Memory.write, hv] at h
    · simp [Memory.write, hv] at h
      exact .inr ⟨h, hv⟩
  | cons f m ih =>
    obtain ⟨b, w⟩ := f
    simp only [Memory.write] at h
    split at h
    · split at h
      · exact .inl h
      · rcases List.mem_cons.1 h with h | h
        · exact .inr ⟨h, by assumption⟩
        · exact .inl h
    · split at h
      · split at h
        · exact .inl (List.mem_cons_of_mem _ h)
        · rcases List.mem_cons.1 h with h | h
          · exact .inr ⟨h, by assumption⟩
          · exact .inl (List.mem_cons_of_mem _ h)
      · rcases List.mem_cons.1 h with h | h
        · exact .inl (by simp [h])
        · rcases ih h with h | h
          · exact .inl (List.mem_cons_of_mem _ h)
          · exact .inr h

/-- A write keeps the canonical form. -/
theorem Memory.wf_write {n : Nat} {m : Memory} (h : Memory.wf n m) {a : Nat} (ha : a < n) (v : Word) :
    Memory.wf n (m.write a v) := by
  induction m with
  | nil => by_cases hv : v = 0#32 <;> simp [Memory.write, Memory.wf, hv, ha]
  | cons e m ih =>
    obtain ⟨b, w⟩ := e
    obtain ⟨hb, hbn, hw, hm⟩ := Memory.wf_cons.1 h
    simp only [Memory.write]
    split
    · split
      · exact h
      · refine Memory.wf_cons.2 ⟨?_, ha, by assumption, h⟩
        intro e he
        rcases List.mem_cons.1 he with rfl | he
        · assumption
        · have := hb e he; omega
    · split
      · rename_i hab
        split
        · exact hm
        · exact Memory.wf_cons.2 ⟨by rw [hab]; exact hb, ha, by assumption, hm⟩
      · refine Memory.wf_cons.2 ⟨?_, hbn, hw, ih hm⟩
        intro e he
        rcases Memory.mem_write he with he | ⟨rfl, -⟩
        · exact hb e he
        · show b < a; omega

/-- The addresses an image can list. -/
theorem Memory.ofImage_bounds (ws : List Word) (base : Nat) :
    ∀ e ∈ Memory.ofImage base ws, base ≤ e.1 ∧ e.1 < base + ws.length ∧ e.2 ≠ 0#32 := by
  induction ws generalizing base with
  | nil => simp [Memory.ofImage]
  | cons w ws ih =>
    intro e he
    simp only [Memory.ofImage] at he
    split at he
    · have := ih (base + 1) e he
      simp only [List.length_cons]
      exact ⟨by omega, by omega, this.2.2⟩
    · rcases List.mem_cons.1 he with rfl | he
      · exact ⟨by simp, by simp, by assumption⟩
      · have := ih (base + 1) e he
        simp only [List.length_cons]
        exact ⟨by omega, by omega, this.2.2⟩

/-- An image that fits is in canonical form. -/
theorem Memory.wf_ofImage (ws : List Word) (base n : Nat) (h : base + ws.length ≤ n) :
    Memory.wf n (Memory.ofImage base ws) := by
  induction ws generalizing base with
  | nil => exact Memory.wf_nil n
  | cons w ws ih =>
    simp only [List.length_cons] at h
    simp only [Memory.ofImage]
    split
    · exact ih (base + 1) (by omega)
    · refine Memory.wf_cons.2 ⟨fun e he => ?_, by omega, by assumption, ih (base + 1) (by omega)⟩
      have := (Memory.ofImage_bounds ws (base + 1) e he).1
      omega

/-- Word `p` of an image is the word at `base + p`; every other address reads 0 (R101, R352). -/
theorem Memory.read_ofImage (ws : List Word) (base p : Nat) :
    (Memory.ofImage base ws).read (base + p) = ws.getD p 0 := by
  induction ws generalizing base p with
  | nil => simp [Memory.ofImage]
  | cons w ws ih =>
    have hlow : (Memory.ofImage (base + 1) ws).read base = 0 :=
      Memory.read_below fun e he => by have := (Memory.ofImage_bounds ws (base + 1) e he).1; omega
    cases p with
    | zero => by_cases hw : w = 0#32 <;> simp [Memory.ofImage, Memory.read, hw, hlow]
    | succ p =>
      have hi := ih (base + 1) p
      have he : base + (p + 1) = base + 1 + p := by omega
      rw [he]
      by_cases hw : w = 0#32
      · simpa [Memory.ofImage, hw] using hi
      · have hne : base + 1 + p ≠ base := by omega
        simpa [Memory.ofImage, Memory.read, hw, hne] using hi

end Sys2Proof.Machine
end

