-- ==== Sys2Proof/Laws/Pipeline.lean ====
section
/-!
SUPPORT. What each stage function can do, said once (44_pipeline.md), and what no stage evaluation touches before the
clock edge (R170).
-/

namespace Sys2Proof.Machine

/-! ## One lemma per stage function -/

/-- R182, R183. -/
theorem decodeStage_cases (srcs : List RegNum) (act : Core → Core) (k : Core) :
    (hazard k srcs = true ∧ decodeStage srcs act k = k.setDecStall true) ∨
      (hazard k srcs = false ∧ decodeStage srcs act k = act k) := by
  cases h : hazard k srcs <;> simp [decodeStage, h]

/-- R190, R192. -/
theorem loadStage_cases (k : Core) :
    (k.mbox.pending = true ∧ loadStage k = k.setMemStall true) ∨
    (k.mbox.pending = false ∧ k.cache.hit (addrOfWord k.slotMEM.result) = true ∧
      loadStage k = (k.acknowledge.countAccess k.mbox.done fun n => { n with readHit := n.readHit + 1 }).setMemResult
        (k.cache.read (addrOfWord k.slotMEM.result))) ∨
    (k.mbox.pending = false ∧ k.cache.hit (addrOfWord k.slotMEM.result) = false ∧
      loadStage k = ((k.acknowledge.countAccess k.mbox.done fun n => { n with readMiss := n.readMiss + 1 }).request
        (addrOfWord k.slotMEM.result) .read).setMemStall true) := by
  cases hp : k.mbox.pending
  · cases hh : k.cache.hit (addrOfWord k.slotMEM.result) <;> simp [loadStage, hp, hh]
  · simp [loadStage, hp]

/-- R191, R192, R223. -/
theorem storeStage_cases (v : Word) (k : Core) :
    (k.mbox.pending = true ∧ storeStage v k = k.setMemStall true) ∨
    (k.mbox.pending = false ∧ k.cache.ownsForWrite (addrOfWord k.slotMEM.result) = true ∧
      storeStage v k =
        (({ k.acknowledge with cache := k.cache.writeInPlace (addrOfWord k.slotMEM.result) v } : Core).countAccess
          k.mbox.done fun n => { n with writeHit := n.writeHit + 1 }).setMemResult k.slotMEM.result) ∨
    (k.mbox.pending = false ∧ k.cache.ownsForWrite (addrOfWord k.slotMEM.result) = false ∧
      storeStage v k =
        ((k.acknowledge.request (addrOfWord k.slotMEM.result) .readExclusive).countAccess
          k.mbox.done fun n => { n with writeMiss := n.writeMiss + 1 }).setMemStall true) := by
  cases hp : k.mbox.pending
  · cases hh : k.cache.ownsForWrite (addrOfWord k.slotMEM.result) <;> simp [storeStage, writeAttempt, hp, hh]
  · simp [storeStage, hp]

/-- R173, R196. -/
theorem writeback_cases (d : RegNum) (k : Core) :
    ((d = 0 ∨ d = 1) ∧ writeback d k = retire k) ∨
      (d ≠ 0 ∧ d ≠ 1 ∧
        writeback d k = { retire k with wrPending := true, wrDest := d, wrValue := k.slotWB.result }) := by
  by_cases h0 : d = 0
  · simp [writeback, writable, h0]
  · by_cases h1 : d = 1 <;> simp [writeback, writable, h0, h1]

/-- R195, R197. -/
theorem fetchStage_cases (k : Core) :
    (fetchEnable k = true ∧
      fetchStage k = { k with
        slotIF := { active := true, pc := k.pc, raw := fetchWord k, result := 0, stall := false }
        sig := { k.sig with
          fetchEn := true
          pcNext := if redirValid k then redirTarget k else k.pc + 1
          redirectPendingNext := false
          redirectTargetNext := k.redirectTarget } }) ∨
    (fetchEnable k = false ∧
      fetchStage k = { k with
        sig := { k.sig with
          fetchEn := false
          pcNext := k.pc
          redirectPendingNext := redirValid k
          redirectTargetNext := redirTarget k } }) := by
  cases h : fetchEnable k <;> simp [fetchStage, h]

/-! ## What no stage evaluation touches -/

/-- `k'` holds the same start-of-cycle state as `k`: the registers, the program counter, the instructions and results in
the slots `ID` to `WB`, the latches of the clock edge, the instruction memory and the mailbox's owner. -/
structure Core.Kept (k k' : Core) : Prop where
  x : k'.x = k.x
  pc : k'.pc = k.pc
  idActive : k'.slotID.active = k.slotID.active
  idPc : k'.slotID.pc = k.slotID.pc
  idRaw : k'.slotID.raw = k.slotID.raw
  idResult : k'.slotID.result = k.slotID.result
  ex : k'.slotEX = k.slotEX
  memActive : k'.slotMEM.active = k.slotMEM.active
  memPc : k'.slotMEM.pc = k.slotMEM.pc
  memRaw : k'.slotMEM.raw = k.slotMEM.raw
  memResult : k'.slotMEM.result = k.slotMEM.result
  wb : k'.slotWB = k.slotWB
  stopFetch : k'.stopFetch = k.stopFetch
  halted : k'.halted = k.halted
  redirectPending : k'.redirectPending = k.redirectPending
  redirectTarget : k'.redirectTarget = k.redirectTarget
  imem : k'.imem = k.imem
  requester : k'.mbox.requester = k.mbox.requester

theorem Core.Kept.refl (k : Core) : k.Kept k := by constructor <;> rfl

theorem Core.Kept.trans {a b c : Core} (h : a.Kept b) (g : b.Kept c) : a.Kept c where
  x := g.x.trans h.x
  pc := g.pc.trans h.pc
  idActive := g.idActive.trans h.idActive
  idPc := g.idPc.trans h.idPc
  idRaw := g.idRaw.trans h.idRaw
  idResult := g.idResult.trans h.idResult
  ex := g.ex.trans h.ex
  memActive := g.memActive.trans h.memActive
  memPc := g.memPc.trans h.memPc
  memRaw := g.memRaw.trans h.memRaw
  memResult := g.memResult.trans h.memResult
  wb := g.wb.trans h.wb
  stopFetch := g.stopFetch.trans h.stopFetch
  halted := g.halted.trans h.halted
  redirectPending := g.redirectPending.trans h.redirectPending
  redirectTarget := g.redirectTarget.trans h.redirectTarget
  imem := g.imem.trans h.imem
  requester := g.requester.trans h.requester

theorem kept_setDecStall (k : Core) (b : Bool) : k.Kept (k.setDecStall b) := by constructor <;> rfl
theorem kept_setMemStall (k : Core) (b : Bool) : k.Kept (k.setMemStall b) := by constructor <;> rfl
theorem kept_setExResult (k : Core) (v : Word) : k.Kept (k.setExResult v) := by constructor <;> rfl
theorem kept_setMemResult (k : Core) (v : Word) : k.Kept (k.setMemResult v) := by constructor <;> rfl
theorem kept_setRedirect (k : Core) (b : Bool) (t : Pc) : k.Kept (k.setRedirect b t) := by constructor <;> rfl
theorem kept_setHaltNow (k : Core) : k.Kept k.setHaltNow := by constructor <;> rfl
theorem kept_setHaltWb (k : Core) : k.Kept k.setHaltWb := by constructor <;> rfl
theorem kept_acknowledge (k : Core) : k.Kept k.acknowledge := by constructor <;> rfl
theorem kept_request (k : Core) (a : Addr) (c : BusCmd) : k.Kept (k.request a c) := by constructor <;> rfl
theorem kept_retire (k : Core) : k.Kept (retire k) := by constructor <;> rfl
theorem kept_clearSignals (k : Core) : k.Kept k.clearSignals := by constructor <;> rfl
theorem kept_cache (k : Core) (c : Cache) : k.Kept { k with cache := c } := by constructor <;> rfl

theorem kept_countAccess (k : Core) (r : Bool) (f : Counters → Counters) : k.Kept (k.countAccess r f) := by
  cases r <;> constructor <;> rfl

theorem kept_loadStage (k : Core) : k.Kept (loadStage k) := by
  rcases loadStage_cases k with ⟨-, h⟩ | ⟨-, -, h⟩ | ⟨-, -, h⟩ <;> rw [h]
  · exact kept_setMemStall k true
  · exact ((kept_acknowledge k).trans (kept_countAccess _ _ _)).trans (kept_setMemResult _ _)
  · exact (((kept_acknowledge k).trans (kept_countAccess _ _ _)).trans (kept_request _ _ _)).trans (kept_setMemStall _ _)

theorem kept_storeStage (v : Word) (k : Core) : k.Kept (storeStage v k) := by
  rcases storeStage_cases v k with ⟨-, h⟩ | ⟨-, -, h⟩ | ⟨-, -, h⟩ <;> rw [h]
  · exact kept_setMemStall k true
  · exact (((kept_acknowledge k).trans (kept_cache _ _)).trans (kept_countAccess _ _ _)).trans (kept_setMemResult _ _)
  · exact (((kept_acknowledge k).trans (kept_request _ _ _)).trans (kept_countAccess _ _ _)).trans (kept_setMemStall _ _)

theorem kept_writeback (d : RegNum) (k : Core) : k.Kept (writeback d k) := by
  rcases writeback_cases d k with ⟨-, h⟩ | ⟨-, -, h⟩ <;> rw [h]
  · exact kept_retire k
  · constructor <;> rfl

theorem kept_fetchStage (k : Core) : k.Kept (fetchStage k) := by
  rcases fetchStage_cases k with ⟨-, h⟩ | ⟨-, h⟩ <;> rw [h] <;> constructor <;> rfl

theorem kept_decodeStage {srcs : List RegNum} {act : Core → Core} {k : Core} (h : k.Kept (act k)) :
    k.Kept (decodeStage srcs act k) := by
  rcases decodeStage_cases srcs act k with ⟨-, e⟩ | ⟨-, e⟩ <;> rw [e]
  · exact kept_setDecStall k true
  · exact h

/-- No instruction's stage touches the start-of-cycle state. -/
theorem kept_instrStages (i : Instr) (st : Stage) (k : Core) : k.Kept (instrStages i st k) := by
  cases st with
  | fetch => rw [instrStages_fetch]; exact kept_fetchStage k
  | decode =>
    rcases instrStages_decode i k with ⟨-, h⟩ | ⟨-, h | ⟨b, t, h⟩ | h⟩ <;> rw [h]
    · exact kept_setDecStall k true
    · exact Core.Kept.refl k
    · exact kept_setRedirect k b t
    · exact kept_setHaltNow k
  | execute => obtain ⟨v, h⟩ := instrStages_execute i k; rw [h]; exact kept_setExResult k v
  | memory =>
    rcases instrStages_memory i k with h | ⟨-, h⟩ | ⟨-, h⟩ <;> rw [h]
    · exact kept_setMemResult k _
    · exact kept_loadStage k
    · exact kept_storeStage _ k
  | writeback =>
    rcases instrStages_writeback i k with h | ⟨d, h⟩ | ⟨-, h⟩ <;> rw [h]
    · exact kept_retire k
    · exact kept_writeback d k
    · exact (kept_retire k).trans (kept_setHaltWb _)

theorem kept_idleStages (rs rt : RegNum) (st : Stage) (k : Core) : k.Kept (idleStages rs rt st k) := by
  cases st with
  | fetch => exact kept_fetchStage k
  | decode => exact kept_decodeStage (Core.Kept.refl k)
  | execute => exact kept_setExResult k 0
  | memory => exact kept_setMemResult k _
  | writeback => exact kept_retire k

theorem kept_bubbleStages (st : Stage) (k : Core) : k.Kept (bubbleStages st k) := by
  cases st with
  | memory => exact kept_setMemResult k _
  | _ => exact Core.Kept.refl k

/-- R170: a stage evaluation leaves the start-of-cycle state as it is. -/
theorem kept_evalStageCore (st : Stage) (k : Core) : k.Kept (evalStageCore st k) := by
  simp only [evalStageCore]
  split
  · exact kept_bubbleStages st k
  · split
    · exact kept_instrStages _ st k
    · exact kept_idleStages _ _ st k

/-- R170: so does the whole evaluation of a core. -/
theorem kept_evalCore (k : Core) : k.Kept (evalCore k) :=
  ((((kept_evalStageCore .writeback k).trans (kept_evalStageCore .memory _)).trans
    (kept_evalStageCore .execute _)).trans (kept_evalStageCore .decode _)).trans (kept_evalStageCore .fetch _)

/-- The word a stage evaluates is the start-of-cycle one. -/
theorem Core.Kept.stageWord {k k' : Core} (h : k.Kept k') (st : Stage) : stageWord k' st = stageWord k st := by
  cases st <;> simp [Machine.stageWord, fetchWord, h.pc, h.imem, h.idActive, h.idRaw, h.ex, h.memActive, h.memRaw, h.wb]

/-! ## The clock edge -/

/-- R200 to R203: how the slots advance. -/
theorem edgeSlots_cases (k : Core) :
    (k.slotMEM.stall = true ∧ edgeSlots k = { k with slotWB := Slot.bubble }) ∨
    (k.slotMEM.stall = false ∧ k.slotID.stall = true ∧
      edgeSlots k = { k with
        slotWB := k.slotMEM.advance k.sig.memResult
        slotMEM := k.slotEX.advance k.sig.exResult
        slotEX := Slot.bubble }) ∨
    (k.slotMEM.stall = false ∧ k.slotID.stall = false ∧
      edgeSlots k = { k with
        slotWB := k.slotMEM.advance k.sig.memResult
        slotMEM := k.slotEX.advance k.sig.exResult
        slotEX := k.slotID.advance 0
        slotID := k.slotIF
        slotIF := Slot.bubble }) := by
  cases hm : k.slotMEM.stall
  · cases hd : k.slotID.stall <;> simp [edgeSlots, hm, hd]
  · simp [edgeSlots, hm]

end Sys2Proof.Machine
end

