-- ==== Sys2Proof/Laws/Bus.lean ====
section
/-!
SUPPORT. The controller step (47_bus_controller.md): what it can do, case by case, and that it touches nothing of a core
but its cache and its mailbox (R225, R302).
-/

namespace Sys2Proof.Machine

/-! ## Address decomposition (R220) -/

@[simp] theorem addrTag_wordAddr (t : Tag) (i : LineIndex) (o : Offset) : addrTag (wordAddr t i o) = t := by
  apply BitVec.eq_of_getLsbD_eq
  intro j (hj : j < 12)
  simp only [addrTag_value, wordAddr_value, BitVec.getLsbD_extractLsb', BitVec.getLsbD_append]
  have h1 : ¬ 8 + j < 2 := by omega
  have h2 : ¬ 8 + j - 2 < 6 := by omega
  have h3 : 8 + j - 2 - 6 = j := by omega
  simp [hj, h1, h2, h3]

@[simp] theorem addrIndex_wordAddr (t : Tag) (i : LineIndex) (o : Offset) : addrIndex (wordAddr t i o) = i := by
  have h : (wordAddr t i o).extractLsb' 2 6 = (BitVec.ofFin i : BitVec 6) := by
    apply BitVec.eq_of_getLsbD_eq
    intro j hj
    simp only [wordAddr_value, BitVec.getLsbD_extractLsb', BitVec.getLsbD_append]
    have h1 : ¬ 2 + j < 2 := by omega
    have h2 : 2 + j - 2 = j := by omega
    simp [hj, h1, h2]
  simp only [addrIndex_value, h]

@[simp] theorem addrOffset_wordAddr (t : Tag) (i : LineIndex) (o : Offset) : addrOffset (wordAddr t i o) = o := by
  have h : (wordAddr t i o).extractLsb' 0 2 = (BitVec.ofFin o : BitVec 2) := by
    apply BitVec.eq_of_getLsbD_eq
    intro j hj
    simp only [wordAddr_value, BitVec.getLsbD_extractLsb', BitVec.getLsbD_append]
    simp [hj]
  simp only [addrOffset_value, h]

/-- The three parts of an address make it up again. -/
theorem wordAddr_parts (a : Addr) : wordAddr (addrTag a) (addrIndex a) (addrOffset a) = a := by
  apply BitVec.eq_of_getLsbD_eq
  intro j (hj : j < 20)
  simp only [wordAddr_value, addrTag_value, addrIndex_value, addrOffset_value, BitVec.ofFin_toFin, BitVec.getLsbD_append,
    BitVec.getLsbD_extractLsb']
  by_cases h1 : j < 2
  · simp [h1]
  · by_cases h2 : j - 2 < 6
    · have h3 : 2 + (j - 2) = j := by omega
      simp [h1, h2, h3]
    · have h3 : 8 + (j - 2 - 6) = j := by omega
      have h4 : j - 2 - 6 < 12 := by omega
      simp [h1, h2, h3, h4]

/-- The block base is word 0 of the block. -/
theorem blockBase_eq (a : Addr) : blockBase a = wordAddr (addrTag a) (addrIndex a) 0 := by
  apply BitVec.eq_of_getLsbD_eq
  intro j (hj : j < 20)
  simp only [blockBase_value, wordAddr_value, addrTag_value, addrIndex_value, BitVec.ofFin_toFin, BitVec.getLsbD_append,
    BitVec.getLsbD_extractLsb']
  by_cases h1 : j < 2
  · simp [h1]
  · have h0 : j - 2 < 18 := by omega
    by_cases h2 : j - 2 < 6
    · simp [h1, h2, h0]
    · have h3 : 8 + (j - 2 - 6) = 2 + (j - 2) := by omega
      have h4 : j - 2 - 6 < 12 := by omega
      simp [h1, h2, h3, h4, h0]

@[simp] theorem addrTag_blockBase (a : Addr) : addrTag (blockBase a) = addrTag a := by simp [blockBase_eq]
@[simp] theorem addrIndex_blockBase (a : Addr) : addrIndex (blockBase a) = addrIndex a := by simp [blockBase_eq]
@[simp] theorem blockBase_blockBase (a : Addr) : blockBase (blockBase a) = blockBase a := by
  rw [blockBase_eq (blockBase a), addrTag_blockBase, addrIndex_blockBase, ← blockBase_eq]
@[simp] theorem blockBase_wordAddr (t : Tag) (i : LineIndex) (o : Offset) :
    blockBase (wordAddr t i o) = wordAddr t i 0 := by simp [blockBase_eq]

/-! ## Cache lines -/

@[simp] theorem Cache.line_setLine_same (c : Cache) (i : LineIndex) (t : TagState) : (c.setLine i t).line i = t := by
  simp [Cache.line, Cache.setLine]

theorem Cache.line_setLine_other (c : Cache) {i j : LineIndex} (t : TagState) (h : j ≠ i) :
    (c.setLine i t).line j = c.line j := by
  have : (i : Nat) ≠ j := fun e => h (Fin.ext e.symm)
  simp [Cache.line, Cache.setLine, this]

@[simp] theorem Cache.line_setWord (c : Cache) (i j : LineIndex) (o : Offset) (v : Word) :
    (c.setWord i o v).line j = c.line j := rfl

@[simp] theorem Cache.word_setLine (c : Cache) (i j : LineIndex) (o : Offset) (t : TagState) :
    (c.setLine i t).word j o = c.word j o := rfl

@[simp] theorem Cache.word_setWord_same (c : Cache) (i : LineIndex) (o : Offset) (v : Word) :
    (c.setWord i o v).word i o = v := by
  simp [Cache.word, Cache.setWord]

theorem Cache.word_setWord_other (c : Cache) {i j : LineIndex} {o p : Offset} (v : Word) (h : ¬ (j = i ∧ p = o)) :
    (c.setWord i o v).word j p = c.word j p := by
  by_cases hi : j = i
  · subst hi
    have hp : (o : Nat) ≠ p := fun e => h ⟨rfl, Fin.ext e.symm⟩
    simp [Cache.word, Cache.setWord, hp]
  · have : (i : Nat) ≠ j := fun e => hi (Fin.ext e.symm)
    simp [Cache.word, Cache.setWord, this]

/-! ## What the controller touches of a core -/

/-- The core is as before but for its cache and its mailbox. -/
def Core.OnlyCacheMailbox (k k' : Core) : Prop := k' = { k with cache := k'.cache, mbox := k'.mbox }

theorem Core.OnlyCacheMailbox.refl (k : Core) : k.OnlyCacheMailbox k := rfl

theorem Core.OnlyCacheMailbox.trans {a b c : Core} (h : a.OnlyCacheMailbox b) (g : b.OnlyCacheMailbox c) :
    a.OnlyCacheMailbox c := by
  unfold Core.OnlyCacheMailbox at *
  rw [g, h]

/-- The states agree but for the bus, the memory, and the caches and mailboxes of the cores. -/
structure State.BusFrame (s t : State) : Prop where
  core : ∀ c, (s.core c).OnlyCacheMailbox (t.core c)
  cycle : t.cycle = s.cycle
  focus : t.focus = s.focus

theorem State.BusFrame.refl (s : State) : s.BusFrame s := ⟨fun _ => rfl, rfl, rfl⟩

theorem State.BusFrame.trans {a b c : State} (h : a.BusFrame b) (g : b.BusFrame c) : a.BusFrame c :=
  ⟨fun d => (h.core d).trans (g.core d), g.cycle.trans h.cycle, g.focus.trans h.focus⟩

theorem busFrame_onBus (s : State) (f : Bus → Bus) : s.BusFrame (s.onBus f) := ⟨fun _ => rfl, rfl, rfl⟩

theorem busFrame_onCore (s : State) (c : CoreId) {f : Core → Core} (h : (s.core c).OnlyCacheMailbox (f (s.core c))) :
    s.BusFrame (s.onCore c f) := by
  refine ⟨fun d => ?_, rfl, rfl⟩
  rw [State.core_onCore]
  split
  · rename_i e; subst e; exact h
  · rfl

theorem busFrame_setLineState (s : State) (c : CoreId) (i : LineIndex) (m : Mesi) :
    s.BusFrame (s.setLineState c i m) := busFrame_onCore s c rfl

theorem busFrame_snoopScan (r : CoreId) (k : BusCmd) (a : Addr) (os : List CoreId) (s : State) :
    s.BusFrame (snoopScan r k a os s) := by
  induction os generalizing s with
  | nil => exact busFrame_onBus s _
  | cons o os ih =>
    simp only [snoopScan]
    split
    · exact ih s
    · split
      · split
        · exact (busFrame_onBus s _).trans (busFrame_onBus _ _)
        · exact ((busFrame_onBus s _).trans (busFrame_setLineState _ _ _ _)).trans (ih _)
      · exact ih s

theorem busFrame_serve (s : State) (r : CoreId) (k : BusCmd) (a : Addr) : s.BusFrame (serve s r k a) := by
  simp only [serve]
  split
  · exact busFrame_onBus s _
  · exact busFrame_snoopScan r k a allCores s

/-- What the idle step can do when it answers a next state (R257, R258): nothing but reset the wires, or serve the
request of the selected mailbox. -/
theorem idleStep_cases {s t : State} (h : idleStep s = .next t) :
    (arbitrate (s.onBus Bus.resetWires) = none ∧ t = s.onBus Bus.resetWires) ∨
    ∃ r, arbitrate (s.onBus Bus.resetWires) = some r ∧
      ((s.core r).mbox.cmd = .read ∨ (s.core r).mbox.cmd = .readExclusive) ∧
      t = serve (s.onBus Bus.resetWires) r (s.core r).mbox.cmd (s.core r).mbox.addr := by
  simp only [idleStep, State.onBus_core] at h
  split at h
  · exact .inl ⟨by assumption, by cases h; rfl⟩
  · rename_i r hr
    refine .inr ⟨r, hr, ?_⟩
    split at h <;> rename_i hc
    · exact ⟨.inl hc, by rw [hc]; cases h; rfl⟩
    · exact ⟨.inr hc, by rw [hc]; cases h; rfl⟩
    · cases h
    · cases h

/-- What the transfer step can do when it answers a next state (R267 to R271). -/
theorem transferStep_cases {s t : State} (h : transferStep s = .next t) :
    ((s.bus.cmd = .read ∨ s.bus.cmd = .readExclusive) ∧ lastWord s.bus = false ∧ t = fillWord s) ∨
    (s.bus.cmd = .read ∧ lastWord s.bus = true ∧ t = finalizeFill (fillWord s) (filledState s.bus.shared)) ∨
    (s.bus.cmd = .readExclusive ∧ lastWord s.bus = true ∧ t = finalizeFill (fillWord s) .modified) ∨
    (s.bus.cmd = .flush ∧ lastWord s.bus = false ∧ t = flushWord s) ∨
    (s.bus.cmd = .flush ∧ lastWord s.bus = true ∧ t = finalizeFlush (flushWord s)) := by
  cases hc : s.bus.cmd <;> cases hl : lastWord s.bus <;> simp [transferStep, hc, hl] at h ⊢ <;> exact h.symm

theorem busFrame_fillWord (s : State) : s.BusFrame (fillWord s) :=
  (busFrame_onCore s s.bus.origid
    (f := fun k =>
      { k with cache := k.cache.setWord (addrIndex s.bus.addr) s.bus.cursor (s.mem.read (transferAddr s.bus).toNat) })
    rfl).trans ⟨fun _ => rfl, rfl, rfl⟩

theorem busFrame_flushWord (s : State) : s.BusFrame (flushWord s) := ⟨fun _ => rfl, rfl, rfl⟩

theorem busFrame_finalizeFill (s : State) (m : Mesi) : s.BusFrame (finalizeFill s m) :=
  (busFrame_onCore s _ (by rfl)).trans (busFrame_onBus _ _)

theorem busFrame_finalizeFlush (s : State) : s.BusFrame (finalizeFlush s) :=
  (busFrame_setLineState s _ _ _).trans (busFrame_onBus _ _)

/-- What the controller step can do when it answers a next state (R256). -/
theorem busStep_cases {s t : State} (h : busStep s = .next t) :
    (s.bus.busy = false ∧ idleStep s = .next t) ∨
    (s.bus.busy = true ∧ 0 < s.bus.cooldown ∧ t = cooldownStep s) ∨
    (s.bus.busy = true ∧ s.bus.cooldown = 0 ∧ transferStep s = .next t) := by
  simp only [busStep] at h
  split at h
  · split at h
    · exact .inr (.inl ⟨by assumption, by assumption, by cases h; rfl⟩)
    · exact .inr (.inr ⟨by assumption, by omega, h⟩)
  · exact .inl ⟨(Bool.not_eq_true _).mp (by assumption), h⟩

/-- R225, R302: the controller touches nothing of a core but its cache and its mailbox. -/
theorem busFrame_busStep {s t : State} (h : busStep s = .next t) : s.BusFrame t := by
  rcases busStep_cases h with ⟨-, h⟩ | ⟨-, -, rfl⟩ | ⟨-, -, h⟩
  · rcases idleStep_cases h with ⟨-, rfl⟩ | ⟨r, -, -, rfl⟩
    · exact busFrame_onBus s _
    · exact (busFrame_onBus s _).trans (busFrame_serve _ _ _ _)
  · exact busFrame_onBus s _
  · rcases transferStep_cases h with ⟨-, -, rfl⟩ | ⟨-, -, rfl⟩ | ⟨-, -, rfl⟩ | ⟨-, -, rfl⟩ | ⟨-, -, rfl⟩
    · exact busFrame_fillWord s
    · exact (busFrame_fillWord s).trans (busFrame_finalizeFill _ _)
    · exact (busFrame_fillWord s).trans (busFrame_finalizeFill _ _)
    · exact busFrame_flushWord s
    · exact (busFrame_flushWord s).trans (busFrame_finalizeFlush _)

end Sys2Proof.Machine
end

