-- ==== Sys2Proof/Laws/Decode.lean ====
section
/-!
SUPPORT. What a decoded word says of its record (R91, R93), and each stage of an instruction by its opcode.
-/

namespace Sys2Proof.Machine

/-- The instruction an opcode number selects has that opcode and the fields it was given. -/
theorem instrOfOp_fields {n : Nat} {rd rs rt : RegNum} {imm : Word} {i : Instr} (h : instrOfOp n rd rs rt imm = some i) :
    i.op.toNat = n ∧ i.rd = rd ∧ i.rs = rs ∧ i.rt = rt ∧ i.imm = imm := by
  unfold instrOfOp at h
  split at h <;> cases h <;> exact ⟨rfl, rfl, rfl, rfl, rfl⟩

/-- No opcode of the map is rejected. -/
theorem instrOfOp_none {n : Nat} {rd rs rt : RegNum} {imm : Word} (h : instrOfOp n rd rs rt imm = none) :
    n = 18 ∨ n = 19 ∨ 21 ≤ n := by
  by_contra hn
  have hc : n = 0 ∨ n = 1 ∨ n = 2 ∨ n = 3 ∨ n = 4 ∨ n = 5 ∨ n = 6 ∨ n = 7 ∨ n = 8 ∨ n = 9 ∨ n = 10 ∨ n = 11 ∨ n = 12 ∨
      n = 13 ∨ n = 14 ∨ n = 15 ∨ n = 16 ∨ n = 17 ∨ n = 20 := by omega
  rcases hc with rfl | rfl | rfl | rfl | rfl | rfl | rfl | rfl | rfl | rfl | rfl | rfl | rfl | rfl | rfl | rfl | rfl |
    rfl | rfl <;> cases h

/-- A decoded instruction has the fields of its word's record. -/
theorem decode_ok {w : Word} {i : Instr} (h : decode w = .ok i) :
    i.op = (decodeRecord w).op ∧ i.rd = (decodeRecord w).rd ∧ i.rs = (decodeRecord w).rs ∧ i.rt = (decodeRecord w).rt ∧
      i.imm = (decodeRecord w).imm := by
  simp only [decode] at h
  split at h
  · cases h
    have := instrOfOp_fields (by assumption)
    exact ⟨BitVec.eq_of_toNat_eq this.1, this.2⟩
  · cases h

/-- A rejected word carries an unknown opcode. -/
theorem decode_error {w : Word} {e : DecodeError} (h : decode w = .error e) :
    (decodeRecord w).op.toNat = 18 ∨ (decodeRecord w).op.toNat = 19 ∨ 21 ≤ (decodeRecord w).op.toNat := by
  simp only [decode] at h
  split at h
  · cases h
  · exact instrOfOp_none (by assumption)

/-- The registers an instruction's decode stage is checked on are those its word is taken to read (R174). -/
theorem instrSrcs_eq {w : Word} {i : Instr} (h : decode w = .ok i) : instrSrcs i = recordSrcs (decodeRecord w) := by
  obtain ⟨ho, hd, hs, ht, -⟩ := decode_ok h
  simp only [recordSrcs, ← ho, ← hd, ← hs, ← ht]
  cases i <;> rfl

/-- An unknown word is taken to read its `rs` and `rt` (R174). -/
theorem recordSrcs_error {w : Word} {e : DecodeError} (h : decode w = .error e) :
    recordSrcs (decodeRecord w) = [(decodeRecord w).rs, (decodeRecord w).rt] := by
  have h := decode_error h
  simp only [recordSrcs]
  generalize (decodeRecord w).op = o at h ⊢
  have : ¬ ((9 ≤ o ∧ o ≤ 15) ∨ o = 17) := by
    rintro (⟨h1, h2⟩ | rfl)
    · have h1 : 9 ≤ o.toNat := h1
      have h2 : o.toNat ≤ 15 := h2
      omega
    · revert h; decide
  simp only [this, if_false]

/-- An unknown word writes no register (R173). -/
theorem recordDest_error {w : Word} {e : DecodeError} (h : decode w = .error e) : recordDest (decodeRecord w) = none := by
  have h := decode_error h
  simp only [recordDest]
  generalize (decodeRecord w).op = o at h ⊢
  have h1 : ¬ (o ≤ 8 ∨ o = 16) := by
    rintro (h2 | rfl)
    · have h2 : o.toNat ≤ 8 := h2
      omega
    · revert h; decide
  have h2 : o ≠ 15 := by rintro rfl; revert h; decide
  simp only [h1, h2, if_false]

/-- What an instruction does in writeback, by its record: retire; latch the write of its destination, if it has one;
drive the terminal halt signal if it is `halt` (R173, R196). -/
theorem instrStages_writeback_eq {w : Word} {i : Instr} (h : decode w = .ok i) (k : Core) :
    instrStages i .writeback k = { retire k with
      wrPending := if (recordDest (decodeRecord w)).isSome then true else k.wrPending
      wrDest := (recordDest (decodeRecord w)).getD k.wrDest
      wrValue := if (recordDest (decodeRecord w)).isSome then k.slotWB.result else k.wrValue
      sig := { k.sig with haltWb := if (decodeRecord w).op = 20 then true else k.sig.haltWb } } := by
  obtain ⟨ho, hd, -⟩ := decode_ok h
  simp only [recordDest, ← ho, ← hd]
  have hw : ∀ d : RegNum, writeback d k = { retire k with
      wrPending := if (writable d).isSome then true else k.wrPending
      wrDest := (writable d).getD k.wrDest
      wrValue := if (writable d).isSome then k.slotWB.result else k.wrValue } := by
    intro d
    simp only [writeback]
    cases writable d <;> rfl
  cases i <;> first
    | exact (hw _).trans rfl
    | rfl

end Sys2Proof.Machine
end

