-- ==== Sys2Proof/Laws/Evaluation.lean ====
section
/-!
SUPPORT. The evaluation of one core in one cycle, stage by stage and field by field: which part of the evaluated core each
stage decides (R170, R183 to R197). A proof about a step cites these and unfolds no stage.
-/

namespace Sys2Proof.Machine

/-! ## One lemma per stage -/

/-- Writeback (R196). -/
theorem evalStageCore_writeback (k : Core) :
    evalStageCore .writeback k = { k with
      counters := { k.counters with
        instructions := k.counters.instructions + if k.slotWB.active then 1 else 0 }
      wrPending := if k.slotWB.dest.isSome then true else k.wrPending
      wrDest := k.slotWB.dest.getD k.wrDest
      wrValue := if k.slotWB.dest.isSome then k.slotWB.result else k.wrValue
      sig := { k.sig with
        haltWb := if k.slotWB.active = true ∧ (decodeRecord k.slotWB.raw).op = 20 then true else k.sig.haltWb } } := by
  simp only [evalStageCore, stageWord, Slot.dest]
  by_cases ha : k.slotWB.active = true
  · simp only [ha, if_true]
    cases hd : decode k.slotWB.raw with
    | ok i =>
      simp only [instrStages_writeback_eq hd, true_and]
      rfl
    | error e =>
      have h20 : (decodeRecord k.slotWB.raw).op ≠ 20 := by
        have := decode_error hd
        intro h
        rw [h] at this
        revert this
        decide
      simp only [recordDest_error hd, true_and, h20, if_false]
      rfl
  · simp only [ha]
    rfl

/-- Memory (R190 to R193). -/
theorem evalStageCore_memory (k : Core) :
    evalStageCore .memory k =
      if k.slotMEM.active = true ∧ (decodeRecord k.slotMEM.raw).op = 16 then loadStage k
      else if k.slotMEM.active = true ∧ (decodeRecord k.slotMEM.raw).op = 17 then
        storeStage (opval k (decodeRecord k.slotMEM.raw).rd (decodeRecord k.slotMEM.raw).imm) k
      else passMemory k := by
  simp only [evalStageCore, stageWord]
  cases ha : k.slotMEM.active with
  | false => simp [bubbleStages]
  | true =>
    simp only [if_true, true_and]
    cases hd : decode k.slotMEM.raw with
    | ok i =>
      obtain ⟨ho, hr, -, -, hi⟩ := decode_ok hd
      simp only [← ho, ← hr, ← hi]
      cases i <;> rfl
    | error e =>
      have := decode_error hd
      have h16 : (decodeRecord k.slotMEM.raw).op ≠ 16 := by intro h; rw [h] at this; revert this; decide
      have h17 : (decodeRecord k.slotMEM.raw).op ≠ 17 := by intro h; rw [h] at this; revert this; decide
      simp only [h16, h17, if_false]
      rfl

/-- Execute drives `ex_result` and nothing else (R186). -/
theorem evalStageCore_execute (k : Core) : ∃ v, evalStageCore .execute k = k.setExResult v := by
  simp only [evalStageCore]
  split
  · exact ⟨k.sig.exResult, rfl⟩
  · split
    · exact instrStages_execute _ k
    · exact ⟨0, rfl⟩

/-- Decode (R180 to R185): raise the stall flag; or drive the redirect, for a branch or `jal`; or drive `halt_now`, for
`halt`; or nothing. -/
theorem evalStageCore_decode (k : Core) :
    (k.slotID.active = true ∧ hazard k (recordSrcs (decodeRecord k.slotID.raw)) = true ∧
      evalStageCore .decode k = k.setDecStall true) ∨
    ((k.slotID.active = true → hazard k (recordSrcs (decodeRecord k.slotID.raw)) = false) ∧
      ((k.slotID.active = true ∧ 9 ≤ (decodeRecord k.slotID.raw).op ∧ (decodeRecord k.slotID.raw).op ≤ 15 ∧
          ∃ b t, evalStageCore .decode k = k.setRedirect b t) ∨
        (k.slotID.active = true ∧ (decodeRecord k.slotID.raw).op = 20 ∧ evalStageCore .decode k = k.setHaltNow) ∨
        ((k.slotID.active = true → (decodeRecord k.slotID.raw).op ≤ 8 ∨ (decodeRecord k.slotID.raw).op = 16 ∨
            (decodeRecord k.slotID.raw).op = 17 ∨ ∃ e, decode k.slotID.raw = .error e) ∧
          evalStageCore .decode k = k))) := by
  simp only [evalStageCore, stageWord]
  cases ha : k.slotID.active with
  | false => exact .inr ⟨by simp, .inr (.inr ⟨by simp, rfl⟩)⟩
  | true =>
    simp only [if_true, true_and, forall_const]
    cases hd : decode k.slotID.raw with
    | ok i =>
      obtain ⟨ho, -⟩ := decode_ok hd
      simp only [← instrSrcs_eq hd, ← ho]
      cases hz : hazard k (instrSrcs i)
      · refine .inr ⟨rfl, ?_⟩
        cases i <;> simp only [instrSrcs] at hz <;>
          simp only [instrStages, aluStages, branchStages, jalStages, lwStages, swStages, haltStages, decodeStage, hz,
            Bool.false_eq_true, if_false, resolve] <;> first
          | exact .inr (.inr ⟨.inl (by simp only [Instr.op]; decide), rfl⟩)
          | exact .inr (.inr ⟨.inr (.inl rfl), rfl⟩)
          | exact .inr (.inr ⟨.inr (.inr (.inl rfl)), rfl⟩)
          | exact .inr (.inl ⟨rfl, trivial⟩)
          | exact .inl ⟨by simp only [Instr.op]; decide, by simp only [Instr.op]; decide, _, _, rfl⟩
      · rcases instrStages_decode i k with ⟨-, h⟩ | ⟨h, -⟩
        · exact .inl ⟨rfl, h⟩
        · rw [hz] at h; cases h
    | error e =>
      simp only [recordSrcs_error hd]
      rcases decodeStage_cases [(decodeRecord k.slotID.raw).rs, (decodeRecord k.slotID.raw).rt] id k with
        ⟨h, he⟩ | ⟨h, he⟩
      · exact .inl ⟨h, he⟩
      · exact .inr ⟨h, .inr (.inr ⟨.inr (.inr (.inr ⟨e, rfl⟩)), he⟩)⟩

/-- Fetch is the same whatever the word (R195). -/
theorem evalStageCore_fetch (k : Core) : evalStageCore .fetch k = fetchStage k := by
  show (match decode (fetchWord k) with
    | .ok i => instrStages i .fetch k
    | .error _ => idleStages (decodeRecord (fetchWord k)).rs (decodeRecord (fetchWord k)).rt .fetch k) = fetchStage k
  cases decode (fetchWord k) with
  | ok i => exact instrStages_fetch i k
  | error e => rfl

/-! ## What the memory stage depends on -/

/-- The hazard condition depends on the start-of-cycle state alone (R180). -/
theorem Core.Kept.hazard {k k' : Core} (h : k.Kept k') (srcs : List RegNum) : hazard k' srcs = hazard k srcs := by
  simp only [Machine.hazard, Slot.dest, List.any_cons, List.any_nil, h.ex, h.memActive, h.memRaw, h.wb]

/-- So does an operand read (R24). -/
theorem Core.Kept.opval {k k' : Core} (h : k.Kept k') (n : RegNum) (imm : Word) : opval k' n imm = opval k n imm := by
  simp only [Machine.opval, h.x]

/-- The two cores agree on what the memory stage leaves behind: cache, mailbox, `MEM` slot and `mem_result`. -/
structure Core.SameAccess (k k' : Core) : Prop where
  cache : k'.cache = k.cache
  mbox : k'.mbox = k.mbox
  slotMEM : k'.slotMEM = k.slotMEM
  memResult : k'.sig.memResult = k.sig.memResult

theorem Core.SameAccess.trans {a b c : Core} (h : a.SameAccess b) (g : b.SameAccess c) : a.SameAccess c :=
  ⟨g.cache.trans h.cache, g.mbox.trans h.mbox, g.slotMEM.trans h.slotMEM, g.memResult.trans h.memResult⟩

theorem sameAccess_countAccess (k : Core) (r : Bool) (f : Counters → Counters) : k.SameAccess (k.countAccess r f) := by
  cases r <;> exact ⟨rfl, rfl, rfl, rfl⟩

theorem sameAccess_loadStage {k k' : Core} (h : k.SameAccess k') : (loadStage k).SameAccess (loadStage k') := by
  obtain ⟨hc, hm, hs, hr⟩ := h
  simp only [loadStage, hc, hm, hs]
  split
  · exact ⟨hc, hm, by simp only [Core.setMemStall, hs], hr⟩
  · split <;> cases k.mbox.done <;> constructor <;>
      simp [Core.countAccess, Core.acknowledge, Core.request, Core.setMemStall, Core.setMemResult, hc, hm, hs, hr]

theorem sameAccess_storeStage {k k' : Core} (h : k.SameAccess k') (v : Word) :
    (storeStage v k).SameAccess (storeStage v k') := by
  obtain ⟨hc, hm, hs, hr⟩ := h
  have h := storeStage_cases v k'
  rw [hc, hm, hs] at h
  rcases storeStage_cases v k with ⟨hp, e⟩ | ⟨hp, ho, e⟩ | ⟨hp, ho, e⟩ <;>
    rcases h with ⟨hp', e'⟩ | ⟨hp', ho', e'⟩ | ⟨hp', ho', e'⟩ <;>
    simp only [hp, Bool.true_eq_false, Bool.false_eq_true] at hp' <;>
    try simp only [ho, Bool.true_eq_false, Bool.false_eq_true] at ho'
  all_goals
    rw [e, e']
    cases k.mbox.done <;> constructor <;>
      simp [Core.countAccess, Core.acknowledge, Core.request, Core.setMemStall, Core.setMemResult, hc, hm, hs, hr]

/-- The memory stage makes the same access on two cores that agree on the start-of-cycle state, the cache and the
mailbox. -/
theorem sameAccess_memory {k k' : Core} (h : k.SameAccess k') (hx : k'.x = k.x) :
    (evalStageCore .memory k).SameAccess (evalStageCore .memory k') := by
  simp only [evalStageCore_memory, h.slotMEM, opval, hx]
  split
  · exact sameAccess_loadStage h
  · split
    · exact sameAccess_storeStage h _
    · exact ⟨h.cache, h.mbox, h.slotMEM, by simp [passMemory, h.slotMEM]⟩

/-- The memory stage touches nothing but the cache, the mailbox, the `MEM` slot's stall flag, the counters and
`mem_result` (R190 to R193). -/
theorem evalStageCore_memory_frame (k : Core) :
    evalStageCore .memory k = { k with
      cache := (evalStageCore .memory k).cache
      mbox := (evalStageCore .memory k).mbox
      slotMEM := { k.slotMEM with stall := (evalStageCore .memory k).slotMEM.stall }
      counters := (evalStageCore .memory k).counters
      sig := { k.sig with memResult := (evalStageCore .memory k).sig.memResult } } := by
  rw [evalStageCore_memory]
  split
  · rcases loadStage_cases k with ⟨-, h⟩ | ⟨-, -, h⟩ | ⟨-, -, h⟩ <;> rw [h] <;>
      first | rfl | (cases k.mbox.done <;> rfl)
  · split
    · rcases storeStage_cases (opval k (decodeRecord k.slotMEM.raw).rd (decodeRecord k.slotMEM.raw).imm) k with
        ⟨-, h⟩ | ⟨-, -, h⟩ | ⟨-, -, h⟩ <;> rw [h] <;> first | rfl | (cases k.mbox.done <;> rfl)
    · rfl

/-! ## The whole evaluation of one core -/

/-- Everything the evaluation of a core in one cycle decides, field by field, in terms of the core at the start of the
cycle `k` (no signal driven, no stall flag set, no write pending) and of the signals of the evaluated core `e`. -/
structure Core.Evaluated (k e : Core) : Prop where
  kept : k.Kept e
  /-- The memory stage's access (R190 to R193). -/
  access : (evalStageCore .memory k).SameAccess e
  /-- The pending register write (R196). -/
  wrPending : e.wrPending = k.slotWB.dest.isSome
  wrDest : ∀ d, k.slotWB.dest = some d → e.wrDest = d
  wrValue : ∀ d, k.slotWB.dest = some d → e.wrValue = k.slotWB.result
  /-- `halt_wb` (R196). -/
  haltWb : e.sig.haltWb = true ↔ k.slotWB.active = true ∧ (decodeRecord k.slotWB.raw).op = 20
  /-- `dec_stall` (R180). -/
  decStall : e.slotID.stall = true ↔
    k.slotID.active = true ∧ hazard k (recordSrcs (decodeRecord k.slotID.raw)) = true
  /-- `redir_now` (R184). -/
  redirNow : e.sig.redirNow = true →
    k.slotID.active = true ∧ 9 ≤ (decodeRecord k.slotID.raw).op ∧ (decodeRecord k.slotID.raw).op ≤ 15
  /-- `halt_now` (R185). -/
  haltNow : e.sig.haltNow = true ↔
    k.slotID.active = true ∧ hazard k (recordSrcs (decodeRecord k.slotID.raw)) = false ∧
      (decodeRecord k.slotID.raw).op = 20
  /-- `fetch_en` (R195). -/
  fetchEn : e.sig.fetchEn = (!e.slotMEM.stall && !e.slotID.stall && !k.stopFetch && !e.sig.haltNow && !k.halted)
  /-- The `IF` slot (R195). -/
  slotIF : e.slotIF =
    if e.sig.fetchEn then { active := true, pc := k.pc, raw := fetchWord k, result := 0, stall := false } else k.slotIF
  /-- `pc'` and the redirect latch (R195, R197). -/
  pcNext : e.sig.pcNext =
    if e.sig.fetchEn then
      (if k.redirectPending || e.sig.redirNow then (if e.sig.redirNow then e.sig.redirTgtNow else k.redirectTarget)
        else k.pc + 1)
    else k.pc
  redirectPendingNext : e.sig.redirectPendingNext =
    if e.sig.fetchEn then false else k.redirectPending || e.sig.redirNow
  redirectTargetNext : e.sig.redirectTargetNext =
    if e.sig.fetchEn then k.redirectTarget
    else if e.sig.redirNow then e.sig.redirTgtNow else k.redirectTarget

/-- What the evaluation of one core can do (R170). -/
theorem evalCore_evaluated {k : Core} (hw : k.wrPending = false) (hi : k.slotID.stall = false)
    (hs : k.sig = Signals.none) : k.Evaluated (evalCore k) := by
  have hmf := evalStageCore_memory_frame (evalStageCore .writeback k)
  have hacc : (evalStageCore .memory k).SameAccess (evalStageCore .memory (evalStageCore .writeback k)) :=
    sameAccess_memory (by rw [evalStageCore_writeback]; exact ⟨rfl, rfl, rfl, rfl⟩) (kept_evalStageCore .writeback k).x
  have hkm := (kept_evalStageCore .writeback k).trans (kept_evalStageCore .memory _)
  obtain ⟨v, hx⟩ := evalStageCore_execute (evalStageCore .memory (evalStageCore .writeback k))
  have hkx := hkm.trans (kept_evalStageCore .execute _)
  have hdc := evalStageCore_decode (evalStageCore .execute (evalStageCore .memory (evalStageCore .writeback k)))
  have hf : evalCore k = fetchStage
      (evalStageCore .decode (evalStageCore .execute (evalStageCore .memory (evalStageCore .writeback k)))) :=
    evalStageCore_fetch _
  have hkd := hkx.trans (kept_evalStageCore .decode _)
  -- the core before decode, named
  rw [hkx.idActive, hkx.idRaw, hkx.hazard] at hdc
  rw [hx] at hdc hkx hkd hf
  have hwb := evalStageCore_writeback k
  generalize evalStageCore .writeback k = w at *
  generalize evalStageCore .memory w = m at *
  have hmIF : m.slotIF = k.slotIF := by rw [hmf, hwb]
  have hmID : m.slotID = k.slotID := by rw [hmf, hwb]
  have hmwp : m.wrPending = k.slotWB.dest.isSome := by rw [hmf, hwb]; simp [hw]
  have hmwd : m.wrDest = k.slotWB.dest.getD k.wrDest := by rw [hmf, hwb]
  have hmwv : m.wrValue = if k.slotWB.dest.isSome then k.slotWB.result else k.wrValue := by rw [hmf, hwb]
  have hmsig : m.sig = { Signals.none with
      haltWb := if k.slotWB.active = true ∧ (decodeRecord k.slotWB.raw).op = 20 then true else false
      memResult := m.sig.memResult } := by
    rw [hmf, hwb]; simp only [hs]; rfl
  generalize hd : evalStageCore .decode (m.setExResult v) = d at *
  -- the core before fetch
  have hdf : d = { m.setExResult v with
      slotID := d.slotID
      sig := { (m.setExResult v).sig with
        redirNow := d.sig.redirNow
        redirTgtNow := d.sig.redirTgtNow
        haltNow := d.sig.haltNow } } := by
    rcases hdc with ⟨-, -, e⟩ | ⟨-, ⟨-, -, -, b, t, e⟩ | ⟨-, -, e⟩ | ⟨-, e⟩⟩ <;> rw [e] <;> rfl
  have hrn0 : m.sig.redirNow = false := by rw [hmsig]; rfl
  have hhn0 : m.sig.haltNow = false := by rw [hmsig]; rfl
  have hst0 : m.slotID.stall = false := by rw [hmID, hi]
  have hst : d.slotID.stall = true ↔
      k.slotID.active = true ∧ hazard k (recordSrcs (decodeRecord k.slotID.raw)) = true := by
    rcases hdc with ⟨ha, hz, e⟩ | ⟨hz, ⟨ha, -, -, b, t, e⟩ | ⟨ha, -, e⟩ | ⟨-, e⟩⟩ <;> rw [e]
    · simp [ha, hz]
    · simp [hst0, hz ha]
    · simp [hst0, hz ha]
    · simp [hst0]; exact hz
  have hrn : d.sig.redirNow = true →
      k.slotID.active = true ∧ 9 ≤ (decodeRecord k.slotID.raw).op ∧ (decodeRecord k.slotID.raw).op ≤ 15 := by
    rcases hdc with ⟨ha, hz, e⟩ | ⟨hz, ⟨ha, h9, h15, b, t, e⟩ | ⟨ha, -, e⟩ | ⟨-, e⟩⟩ <;> rw [e]
    · simp [Core.setDecStall, Core.setExResult, hrn0]
    · exact fun _ => ⟨ha, h9, h15⟩
    · simp [Core.setHaltNow, Core.setExResult, hrn0]
    · simp [Core.setExResult, hrn0]
  have hhn : d.sig.haltNow = true ↔
      k.slotID.active = true ∧ hazard k (recordSrcs (decodeRecord k.slotID.raw)) = false ∧
        (decodeRecord k.slotID.raw).op = 20 := by
    rcases hdc with ⟨ha, hz, e⟩ | ⟨hz, ⟨ha, h9, h15, b, t, e⟩ | ⟨ha, ho, e⟩ | ⟨ho, e⟩⟩ <;> rw [e]
    · simp [Core.setDecStall, Core.setExResult, hhn0, hz]
    · have : (decodeRecord k.slotID.raw).op ≠ 20 := by intro h; rw [h] at h15; revert h15; decide
      simpa [Core.setRedirect, Core.setExResult, hhn0] using fun _ _ => this
    · simpa [Core.setHaltNow, ha, ho] using hz ha
    · simp only [Core.setExResult, hhn0, Bool.false_eq_true, false_iff]
      rintro ⟨ha, -, h20⟩
      rcases ho ha with h | h | h | ⟨e, h⟩
      · rw [h20] at h; revert h; decide
      · rw [h20] at h; revert h; decide
      · rw [h20] at h; revert h; decide
      · have := decode_error h; rw [h20] at this; revert this; decide
  have hds : d.slotMEM = m.slotMEM := by rw [hdf]; rfl
  -- the fetch stage
  have hkept := hkd.trans (kept_fetchStage d)
  rw [← hf] at hkept
  have hIF : d.slotIF = k.slotIF := by rw [hdf]; exact hmIF
  have hwp : d.wrPending = k.slotWB.dest.isSome := by rw [hdf]; exact hmwp
  have hwd : d.wrDest = k.slotWB.dest.getD k.wrDest := by rw [hdf]; exact hmwd
  have hwv : d.wrValue = if k.slotWB.dest.isSome then k.slotWB.result else k.wrValue := by rw [hdf]; exact hmwv
  have hhw : d.sig.haltWb = if k.slotWB.active = true ∧ (decodeRecord k.slotWB.raw).op = 20 then true else false := by
    rw [hdf]; show m.sig.haltWb = _; rw [hmsig]
  have had : (evalStageCore .memory k).SameAccess d := by
    refine hacc.trans ⟨?_, ?_, hds, ?_⟩ <;> rw [hdf] <;> rfl
  have hfw : fetchWord d = fetchWord k := by simp [fetchWord, hkd.imem, hkd.pc]
  rcases fetchStage_cases d with ⟨he, e⟩ | ⟨he, e⟩ <;> rw [← hf] at e <;>
    simp only [fetchEnable, hkd.stopFetch, hkd.halted] at he <;> rw [e]
  · refine ⟨by rw [← e]; exact hkept, had.trans ⟨rfl, rfl, rfl, rfl⟩, hwp, ?_, ?_, ?_, hst, hrn, hhn, ?_, ?_, ?_, ?_, ?_⟩
    · intro b hb; show d.wrDest = b; simp [hwd, hb]
    · intro b hb; show d.wrValue = _; simp [hwv, hb]
    · show d.sig.haltWb = true ↔ _; simp [hhw]
    · simp [he]
    · simp [hfw, hkd.pc]
    · simp [redirValid, redirTarget, hkd.redirectPending, hkd.redirectTarget, hkd.pc]
    · simp
    · simp [hkd.redirectTarget]
  · refine ⟨by rw [← e]; exact hkept, had.trans ⟨rfl, rfl, rfl, rfl⟩, hwp, ?_, ?_, ?_, hst, hrn, hhn, ?_, ?_, ?_, ?_, ?_⟩
    · intro b hb; show d.wrDest = b; simp [hwd, hb]
    · intro b hb; show d.wrValue = _; simp [hwv, hb]
    · show d.sig.haltWb = true ↔ _; simp [hhw]
    · simp [he]
    · simp [hIF]
    · simp [hkd.pc]
    · simp [redirValid, hkd.redirectPending]
    · simp [redirTarget, hkd.redirectTarget]

end Sys2Proof.Machine
end

