-- ==== Sys2Proof/Laws/Gives.lean ====
section
/-!
SUPPORT. The form the statements about one instruction take (`Gives`), reduced to the instruction's stage function.
-/

namespace Sys2Proof.Machine

/-- A stage evaluation leaves everything but the core under evaluation as it was. -/
theorem onlyFocusCore_onFocus (s : State) (f : Stage → Core → Core) : s.OnlyFocusCore (s.onFocus f) :=
  ⟨fun d h => State.core_onCore_other s s.focus.core d _ h, rfl, rfl, rfl, rfl⟩

/-- The core under evaluation after its stage function. -/
theorem focusCore_onFocus (s : State) (f : Stage → Core → Core) :
    (s.onFocus f).focusCore = f s.focus.stage s.focusCore :=
  State.core_onCore_same s s.focus.core _

/-- `Gives` says what the instruction's stage function makes of the core under evaluation. -/
theorem gives_iff (i : Instr) (s : State) (k' : Core) :
    Gives i s k' ↔ instrStages i s.focus.stage s.focusCore = k' := by
  constructor
  · rintro ⟨t, h, -, rfl⟩
    rw [exec_eq] at h
    cases h
    exact (focusCore_onFocus s _).symm
  · rintro rfl
    exact ⟨_, exec_eq i s, onlyFocusCore_onFocus s _, focusCore_onFocus s _⟩

end Sys2Proof.Machine
end

