-- ==== Sys2Proof/Laws/PerInstr.lean ====
section
/-!
SUPPORT. Facts about every instruction as syntax, one lemma per constructor.
-/

namespace Sys2Proof.Laws

/-- An instruction's own opcode number and fields select it in the opcode map (R93, R94). -/
def OpSelects.Statement (i : Instr) : Prop := instrOfOp i.op.toNat i.rd i.rs i.rt i.imm = some i

theorem OpSelects.add (rd rs rt : RegNum) (imm : Word) : OpSelects.Statement (.add rd rs rt imm) := rfl
theorem OpSelects.sub (rd rs rt : RegNum) (imm : Word) : OpSelects.Statement (.sub rd rs rt imm) := rfl
theorem OpSelects.and (rd rs rt : RegNum) (imm : Word) : OpSelects.Statement (.and rd rs rt imm) := rfl
theorem OpSelects.or (rd rs rt : RegNum) (imm : Word) : OpSelects.Statement (.or rd rs rt imm) := rfl
theorem OpSelects.xor (rd rs rt : RegNum) (imm : Word) : OpSelects.Statement (.xor rd rs rt imm) := rfl
theorem OpSelects.mul (rd rs rt : RegNum) (imm : Word) : OpSelects.Statement (.mul rd rs rt imm) := rfl
theorem OpSelects.sll (rd rs rt : RegNum) (imm : Word) : OpSelects.Statement (.sll rd rs rt imm) := rfl
theorem OpSelects.sra (rd rs rt : RegNum) (imm : Word) : OpSelects.Statement (.sra rd rs rt imm) := rfl
theorem OpSelects.srl (rd rs rt : RegNum) (imm : Word) : OpSelects.Statement (.srl rd rs rt imm) := rfl
theorem OpSelects.beq (rd rs rt : RegNum) (imm : Word) : OpSelects.Statement (.beq rd rs rt imm) := rfl
theorem OpSelects.bne (rd rs rt : RegNum) (imm : Word) : OpSelects.Statement (.bne rd rs rt imm) := rfl
theorem OpSelects.blt (rd rs rt : RegNum) (imm : Word) : OpSelects.Statement (.blt rd rs rt imm) := rfl
theorem OpSelects.bgt (rd rs rt : RegNum) (imm : Word) : OpSelects.Statement (.bgt rd rs rt imm) := rfl
theorem OpSelects.ble (rd rs rt : RegNum) (imm : Word) : OpSelects.Statement (.ble rd rs rt imm) := rfl
theorem OpSelects.bge (rd rs rt : RegNum) (imm : Word) : OpSelects.Statement (.bge rd rs rt imm) := rfl
theorem OpSelects.jal (rd rs rt : RegNum) (imm : Word) : OpSelects.Statement (.jal rd rs rt imm) := rfl
theorem OpSelects.lw (rd rs rt : RegNum) (imm : Word) : OpSelects.Statement (.lw rd rs rt imm) := rfl
theorem OpSelects.sw (rd rs rt : RegNum) (imm : Word) : OpSelects.Statement (.sw rd rs rt imm) := rfl
theorem OpSelects.halt (rd rs rt : RegNum) (imm : Word) : OpSelects.Statement (.halt rd rs rt imm) := rfl

end Sys2Proof.Laws
end

