-- ==== Sys2Proof/Tests/Slice0.lean ====
section
/-!
SUPPORT. Tests of the model, each a named theorem the kernel evaluates, and a witness for the hypotheses of every
statement that has some (`witness_<its name>`). Expected values are from 95_test_vectors.md (the part is named) or worked
out by hand from the rule named.
-/

namespace Sys2Proof.Tests

set_option Elab.async false

open Sys2Proof Sys2Proof.Machine

/-! ## Well-formedness: the one check, with a term it refuses (R92) -/

theorem test_wellFormed_accepts_bounds :
    (Instr.add 2 0 1 0xFFFFF800).wellFormed = true ∧ (Instr.add 2 0 1 0x7FF).wellFormed = true := by decide +kernel
theorem test_wellFormed_refuses_large_immediate : (Instr.add 2 0 1 0x800).wellFormed = false := by decide +kernel
theorem test_wellFormed_refuses_small_immediate : (Instr.lw 2 0 1 0xFFFFF7FF).wellFormed = false := by decide +kernel

/-! ## Decoding: a word of every instruction, written out in part 2 of the test vectors, and unknown opcodes -/

theorem test_decode_add : decode 0x00201005 = .ok (.add 2 0 1 5) := by rfl
theorem test_decode_sub : decode 0x01432000 = .ok (.sub 4 3 2 0) := by rfl
theorem test_decode_and : decode 0x029210FF = .ok (.and 9 2 1 255) := by rfl
theorem test_decode_or : decode 0x03A31800 = .ok (.or 10 3 1 0xFFFFF800) := by rfl
theorem test_decode_xor : decode 0x04B23000 = .ok (.xor 11 2 3 0) := by rfl
theorem test_decode_mul : decode 0x05522000 = .ok (.mul 5 2 2 0) := by rfl
theorem test_decode_sll : decode 0x06621004 = .ok (.sll 6 2 1 4) := by rfl
theorem test_decode_sra : decode 0x07721001 = .ok (.sra 7 2 1 1) := by rfl
theorem test_decode_srl : decode 0x0882101C = .ok (.srl 8 2 1 28) := by rfl
theorem test_decode_beq : decode 0x09100004 = .ok (.beq 1 0 0 4) := by rfl
theorem test_decode_bne : decode 0x0A120002 = .ok (.bne 1 2 0 2) := by rfl
theorem test_decode_blt : decode 0x0B123006 = .ok (.blt 1 2 3 6) := by rfl
theorem test_decode_bgt : decode 0x0C123009 = .ok (.bgt 1 2 3 9) := by rfl
theorem test_decode_ble : decode 0x0DF23000 = .ok (.ble 15 2 3 0) := by rfl
theorem test_decode_bge : decode 0x0E456FFF = .ok (.bge 4 5 6 0xFFFFFFFF) := by rfl
theorem test_decode_jal : decode 0x0F100005 = .ok (.jal 1 0 0 5) := by rfl
theorem test_decode_lw : decode 0x10321004 = .ok (.lw 3 2 1 4) := by rfl
theorem test_decode_sw : decode 0x11421004 = .ok (.sw 4 2 1 4) := by rfl
theorem test_decode_halt : decode 0x14ABCDEF = .ok (.halt 10 11 12 0xFFFFFDEF) := by rfl
theorem test_decode_refuses_18 : decode 0x122347FF = .error (.unknownOpcode 18) := by rfl
theorem test_decode_refuses_19 : decode 0x13000000 = .error (.unknownOpcode 19) := by rfl
theorem test_decode_refuses_21 : decode 0x15000000 = .error (.unknownOpcode 21) := by rfl
theorem test_decode_refuses_255 : decode 0xFFFFFFFF = .error (.unknownOpcode 255) := by rfl
theorem test_encode_or : encode (.or 10 3 1 0xFFFFF800) = 0x03A31800 := by rfl
theorem test_decodeTableWord : decodeTableWord 32 0x14000000 = some (.halt 0 0 0 0) := by rfl

/-! ## Small states -/

/-- The machine after reset with core 0 changed. -/
def core0 (f : Core → Core) : State := State.reset.onCore 0 f

/-- The evaluation at a stage of core 0. -/
def at0 (st : Stage) (s : State) : State := s.withFocus { core := 0, stage := st }

/-- An instruction in a stage slot. -/
def instr (w : Word) (pc : Pc) (result : Word) : Slot :=
  { active := true, pc := pc, raw := w, result := result, stall := false }

/-- A register file with the given contents of registers 2 and 3, the rest 0. -/
def regs (a b : Word) : Vector Word 16 := #v[0, 0, a, b, 0, 0, 0, 0, 0, 0, 0, 0, 0, 0, 0, 0]

/-- Core 0 with registers 2 and 3 set. -/
def withRegs (a b : Word) : State := core0 fun k => { k with x := regs a b }

/-- Read something of the core under evaluation after a meaning ran. -/
def after {α : Type} (o : Host.Outcome State Fault Refusal) (f : Core → α) : Option α :=
  match o with
  | .next t => some (f t.focusCore)
  | .fault _ => none
  | .refused _ => none

/-- Read something of the next state. -/
def afterStep {α : Type} (o : Host.Outcome State Fault Refusal) (f : State → α) : Option α :=
  match o with
  | .next t => some (f t)
  | .fault _ => none
  | .refused _ => none

/-- The value the execute stage drives, with `a` in register 2 and `b` in register 3. -/
def executed (i : Instr) (a b : Word) : Option Word :=
  after (exec i (at0 .execute (withRegs a b))) fun k => k.sig.exResult

/-- The redirect the decode stage drives, with `a` in register 2 and `b` in register 3. -/
def redirected (i : Instr) (a b : Word) : Option (Bool × Pc) :=
  after (exec i (at0 .decode (withRegs a b))) fun k => (k.sig.redirNow, k.sig.redirTgtNow)

/-! ## Arithmetic and logic (part 3 of the test vectors) -/

theorem test_add_wraps : executed (.add 4 2 3 0) 0x7FFFFFFF 1 = some 0x80000000 := by decide +kernel
theorem test_add_both_immediate : executed (.add 4 1 1 5) 0 0 = some 0xA := by decide +kernel
theorem test_sub_order : executed (.sub 4 2 3 0) 0 1 = some 0xFFFFFFFF := by decide +kernel
theorem test_and : executed (.and 4 2 3 0) 0xF0F0F0F0 0xFFFF0000 = some 0xF0F00000 := by decide +kernel
theorem test_or : executed (.or 4 2 3 0) 0xF0F0F0F0 0x0000FFFF = some 0xF0F0FFFF := by decide +kernel
theorem test_xor : executed (.xor 4 2 3 0) 0xAAAAAAAA 0x55555555 = some 0xFFFFFFFF := by decide +kernel
theorem test_mul_low : executed (.mul 4 2 3 0) 0x12345678 0x9ABCDEF0 = some 0x242D2080 := by decide +kernel
theorem test_sll_amount_mod_32 : executed (.sll 4 2 3 0) 1 0xFFFFFFFF = some 0x80000000 := by decide +kernel
theorem test_sll_bit_falls_out : executed (.sll 4 2 3 0) 0x80000001 1 = some 2 := by decide +kernel
theorem test_sra_copies_sign : executed (.sra 4 2 3 0) 0x80000000 0x21 = some 0xC0000000 := by decide +kernel
theorem test_srl_enters_zeros : executed (.srl 4 2 3 0) 0xFFFFFFF0 0xFFFFFFE4 = some 0x0FFFFFFF := by decide +kernel

/-- R36, R196: writeback latches the result for register 2, nothing for register 1. -/
theorem test_add_writeback :
    after (exec (.add 2 0 1 5) (at0 .writeback (core0 fun k => { k with slotWB := instr 0x00201005 0 5 })))
      (fun k => (k.wrPending, k.wrDest, k.wrValue, k.counters.instructions)) = some (true, 2, 5, 1) ∧
    after (exec (.add 1 0 1 5) (at0 .writeback (core0 fun k => { k with slotWB := instr 0x00101005 0 5 })))
      (fun k => (k.wrPending, k.counters.instructions)) = some (false, 1) := by decide +kernel

/-! ## Branches (part 4) -/

theorem test_beq : redirected (.beq 1 2 3 4) 5 5 = some (true, 4) ∧ redirected (.beq 1 2 3 4) 5 6 = some (false, 4) := by
  decide +kernel
theorem test_bne : redirected (.bne 1 2 3 4) 5 6 = some (true, 4) ∧ redirected (.bne 1 2 3 4) 0 0 = some (false, 4) := by
  decide +kernel
theorem test_blt_signed : redirected (.blt 1 2 3 4) 0x80000000 0x7FFFFFFF = some (true, 4) := by decide +kernel
theorem test_bgt_signed : redirected (.bgt 1 2 3 4) 1 0xFFFFFFFF = some (true, 4) := by decide +kernel
theorem test_ble_equal : redirected (.ble 1 2 3 4) 5 5 = some (true, 4) ∧ redirected (.ble 1 2 3 4) 1 0xFFFFFFFF = some (false, 4) := by
  decide +kernel
theorem test_bge_equal : redirected (.bge 1 2 3 4) 5 5 = some (true, 4) ∧ redirected (.bge 1 2 3 4) 0xFFFFFFFF 1 = some (false, 4) := by
  decide +kernel
theorem test_target_is_low_ten_bits :
    redirected (.jal 2 0 0 0) 0x405 0 = some (true, 5) ∧ redirected (.jal 1 0 0 0xFFFFFFFF) 0 0 = some (true, 1023) := by
  decide +kernel
/-- `jal` at address 1023: the link is 0. -/
theorem test_jal_link_wraps :
    after (exec (.jal 1 0 0 4) (at0 .execute (core0 fun k => { k with slotEX := instr 0x0F100004 1023 0 })))
      (fun k => k.sig.exResult) = some 0 := by decide +kernel
/-- R180, R182: a branch whose operand is still in writeback waits. -/
theorem test_branch_waits_for_writeback :
    after (exec (.beq 1 2 3 4) (at0 .decode (core0 fun k => { k with slotWB := instr 0x00201005 0 5 })))
      (fun k => (k.slotID.stall, k.sig.redirNow)) = some (true, false) := by decide +kernel

/-! ## Load, store, halt -/

/-- Core 0 with line 1 in the given state and tag, word 2 of its block holding 77, and the word `w` in the memory stage
with effective address `a`. -/
def accessing (w : Word) (a : Word) (tag : Tag) (m : Mesi) : State :=
  core0 fun k => { k with
    x := regs 9 0
    cache := (k.cache.setLine 1 { tag := tag, state := m }).setWord 1 2 77
    slotMEM := instr w 0 a }

/-- R190: address 0x306 is tag 3, line 1, word 2. -/
theorem test_lw_hit :
    after (exec (.lw 3 2 1 4) (at0 .memory (accessing 0x10321004 0x306 3 .shared)))
      (fun k => (k.sig.memResult, k.slotMEM.stall, k.counters.readHit)) = some (77, false, 1) := by decide +kernel
theorem test_lw_other_tag_misses :
    after (exec (.lw 3 2 1 4) (at0 .memory (accessing 0x10321004 0x306 4 .shared)))
      (fun k => (k.mbox.pending, k.mbox.cmd, k.mbox.addr, k.slotMEM.stall, k.counters.readMiss)) =
      some (true, .read, 0x306, true, 1) := by decide +kernel
/-- R223 (1): the store of register 2 is performed in the cache and the line becomes Modified. -/
theorem test_sw_exclusive :
    after (exec (.sw 2 2 1 4) (at0 .memory (accessing 0x11221004 0x306 3 .exclusive)))
      (fun k => (k.cache.word 1 2, (k.cache.line 1).state, k.slotMEM.stall, k.counters.writeHit)) =
      some (9, .modified, false, 1) := by decide +kernel
/-- R223 (2): a store to a Shared line writes nothing and asks for ownership. -/
theorem test_sw_shared_upgrades :
    after (exec (.sw 2 2 1 4) (at0 .memory (accessing 0x11221004 0x306 3 .shared)))
      (fun k => (k.cache.word 1 2, k.mbox.cmd, k.slotMEM.stall, k.counters.writeMiss)) =
      some (77, .readExclusive, true, 1) := by decide +kernel
/-- R174: a store waits for the register it stores. -/
theorem test_sw_waits_for_data :
    after (exec (.sw 2 3 4 0) (at0 .decode (core0 fun k => { k with slotWB := instr 0x00201005 0 5 })))
      (fun k => k.slotID.stall) = some true := by decide +kernel
/-- R150: the sum is cut to 20 bits. -/
theorem test_address_is_masked : executed (.lw 4 2 3 0) 0xFFFFFFFF 0x00300002 = some 1 := by decide +kernel
theorem test_halt_decode :
    after (exec (.halt 0 0 0 0) (at0 .decode State.reset)) (fun k => (k.sig.haltNow, k.slotID.stall)) =
      some (true, false) := by decide +kernel
theorem test_halt_writeback :
    after (exec (.halt 0 0 0 0) (at0 .writeback State.reset)) (fun k => (k.sig.haltWb, k.counters.instructions)) =
      some (true, 1) := by decide +kernel
/-- R96, R174: `halt` with unused fields set still waits on them. -/
theorem test_halt_waits_on_unused_field :
    after (exec (.halt 10 2 12 0) (at0 .decode (core0 fun k => { k with slotEX := instr 0x00201005 0 0 })))
      (fun k => (k.sig.haltNow, k.slotID.stall)) = some (false, true) := by decide +kernel

/-! ## Whole steps -/

/-- R351: the word placed where core 0 fetches is in decode after one step, and `pc` is 1. -/
theorem test_step_runs_placed_word :
    afterStep (step (State.reset.withFetchWord 32 0x00201005))
      (fun t => ((t.core 0).slotID.raw, (t.core 0).pc, t.cycle)) = some (0x00201005, 1, 1) := by decide +kernel
/-- R22, R204: the alias cell shows the immediate of the word now in decode. -/
theorem test_step_updates_alias :
    afterStep (step (State.reset.withFetchWord 32 0x00201FFF)) (fun t => (t.core 0).x[1]) = some 0xFFFFFFFF := by
  decide +kernel
/-- R257: `cmd` and `last_granted` after an idle step, and nothing is in flight. -/
theorem test_step_idle_bus :
    afterStep (step State.reset) (fun t => (t.bus.busy, t.bus.lastGranted)) = some (false, 3) := by decide +kernel

/-! ## States for the witnesses, each meeting the invariant

Every one is a state such as a run passes through; the invariant is checked by the kernel. -/

/-- The invariant of a concrete state, as a check the kernel evaluates. -/
def invCheck (s : State) : Bool :=
  decide (∀ c : CoreId, (s.core c).Quiet ∧ (s.core c).x[0] = 0 ∧ (s.core c).RedirectInv) &&
  decide (∀ c : CoreId, (s.core c).HaltInv) &&
  decide (∀ c : CoreId, (s.core c).MailboxInv c ∧ Memory.wf Config.imemSize (s.core c).imem) &&
  decide s.bus.Inv && decide s.FillInv && decide s.FlushInv && decide s.ServesSomeone && decide s.Coherent &&
  decide (Memory.wf Config.memSize s.mem) && decide (s.focus = Focus.rest)

theorem inv_of_check {s : State} (h : invCheck s = true) : s.Inv := by
  simp only [invCheck, Bool.and_eq_true, decide_eq_true_eq] at h
  obtain ⟨⟨⟨⟨⟨⟨⟨⟨⟨h1, h2⟩, h3⟩, hb⟩, hf⟩, hl⟩, hs⟩, hc⟩, hm⟩, hx⟩ := h
  exact ⟨fun c => ⟨(h1 c).1, (h1 c).2.1, (h1 c).2.2, h2 c, (h3 c).1, (h3 c).2⟩, hb, hf, hl, hs, hc, hm, hx⟩

/-- The outcome is a next state. -/
def isNext (o : Host.Outcome State Fault Refusal) : Bool :=
  match o with
  | .next _ => true
  | .fault _ => false
  | .refused _ => false

theorem exists_next {o : Host.Outcome State Fault Refusal} (h : isNext o = true) : ∃ t, o = .next t := by
  cases o with
  | next t => exact ⟨t, rfl⟩
  | fault r => cases h
  | refused r => cases h

theorem exists_afterStep {o : Host.Outcome State Fault Refusal} {f : State → Bool} (h : afterStep o f = some true) :
    ∃ t, o = .next t ∧ f t = true := by
  cases o with
  | next t => exact ⟨t, rfl, Option.some.inj h⟩
  | fault r => cases h
  | refused r => cases h

theorem reset_inv : State.reset.Inv := inv_of_check (by decide +kernel)

/-- `add $r2, $zero, $imm, 5` of address 0 in decode, nothing behind it. -/
def sAdd : State := core0 fun k => { k with slotID := instr 0x00201005 0 0, pc := 1 }
theorem sAdd_inv : sAdd.Inv := inv_of_check (by decide +kernel)

/-- `jal $imm, $zero, $zero, 5` of address 1023 in decode, nothing behind it. -/
def sJal : State := core0 fun k => { k with slotID := instr 0x0F100005 1023 0, pc := 0 }
theorem sJal_inv : sJal.Inv := inv_of_check (by decide +kernel)

/-- A taken `beq` of address 0 in decode. -/
def sBeq : State := core0 fun k => { k with slotID := instr 0x09100004 0 0, pc := 1 }
theorem sBeq_inv : sBeq.Inv := inv_of_check (by decide +kernel)

/-- `halt` of address 0 in decode, nothing behind it. -/
def sHalt : State := core0 fun k => { k with slotID := instr 0x14000000 0 0, pc := 1 }
theorem sHalt_inv : sHalt.Inv := inv_of_check (by decide +kernel)

/-- `add $r2, …` in writeback with result 5. -/
def sWb : State := core0 fun k => { k with slotWB := instr 0x00201005 0 5, pc := 1 }
theorem sWb_inv : sWb.Inv := inv_of_check (by decide +kernel)

/-- `lw $r3, …` in the memory stage, its line Exclusive. -/
def sLoad : State := accessing 0x10321004 0x306 3 .exclusive
theorem sLoad_inv : sLoad.Inv := inv_of_check (by decide +kernel)

/-- `sw $r2, …` in the memory stage, its line Modified. -/
def sStore : State := accessing 0x11221004 0x306 3 .modified
theorem sStore_inv : sStore.Inv := inv_of_check (by decide +kernel)

/-- `lw $r3, …` whose request has just completed. -/
def sRetry : State := (accessing 0x10321004 0x306 3 .shared).onCore 0 fun k => { k with
  mbox := { k.mbox with done := true, addr := 0x306, cmd := .read } }
theorem sRetry_inv : sRetry.Inv := inv_of_check (by decide +kernel)

/-- Core 0's `lw` of address 0x306 waits. -/
def sWaiting : State := core0 fun k => { k with
  slotMEM := instr 0x10321004 0 0x306
  mbox := { k.mbox with pending := true, addr := 0x306, cmd := .read } }
theorem sWaiting_inv : sWaiting.Inv := inv_of_check (by decide +kernel)

/-- Its Read has been granted, with the given cooldown and cursor. -/
def sFill (cooldown : Nat) (cursor : Offset) : State := sWaiting.onBus fun b => { b with
  cmd := .read, addr := 0x306, origid := 0, busy := true, cooldown := cooldown, cursor := cursor }
theorem sFill_inv : (sFill 16 0).Inv ∧ (sFill 0 0).Inv ∧ (sFill 0 3).Inv :=
  ⟨inv_of_check (by decide +kernel), inv_of_check (by decide +kernel), inv_of_check (by decide +kernel)⟩

/-- Core 1 holds core 0's block Modified, with data 5 in every word. -/
def sDirty : State := sWaiting.onCore 1 fun k => { k with
  cache := { k.cache.setLine 1 { tag := 3, state := .modified } with
    data := k.cache.data.set 1 #v[5, 5, 5, 5] } }
theorem sDirty_inv : sDirty.Inv := inv_of_check (by decide +kernel)

/-- The controller is flushing that block for core 0's Read. -/
def sFlush (cursor : Offset) : State := sDirty.onBus fun b => { b with
  cmd := .flush, addr := 0x304, origid := 1, shared := true, busy := true, cursor := cursor, postFlush := .shared }
theorem sFlush_inv : (sFlush 0).Inv ∧ (sFlush 3).Inv :=
  ⟨inv_of_check (by decide +kernel), inv_of_check (by decide +kernel)⟩

/-- Core 0's own line holds another block Modified. -/
def sEvict : State := sWaiting.onCore 0 fun k => { k with cache := k.cache.setLine 1 { tag := 9, state := .modified } }

/-- Core 1 holds core 0's block Exclusive. -/
def sSnooped : State := sWaiting.onCore 1 fun k => { k with cache := k.cache.setLine 1 { tag := 3, state := .exclusive } }

/-- Every core halted. -/
def sDone : State := State.reset.onEveryCore fun k => { k with stopFetch := true, halted := true }
theorem sDone_inv : sDone.Inv := inv_of_check (by decide +kernel)

/-- An unknown word (opcode 18) in every stage of core 0. -/
def sUnknown : State := core0 fun k => { k with
  slotID := instr 0x122347FF 3 0, slotEX := instr 0x122347FF 2 0, slotMEM := instr 0x122347FF 1 0
  slotWB := instr 0x122347FF 0 0 }

/-! ## Witnesses: encoding, dispatch and the step -/

theorem witness_DecodeOfEncode :
    (Instr.add 2 0 1 0xFFFFF800).wellFormed = true ∧ (Instr.halt 15 15 15 0x7FF).wellFormed = true := by decide +kernel
theorem witness_EncodeOfDecode : decode 0x14ABCDEF = .ok (.halt 10 11 12 0xFFFFFDEF) := by rfl
/-- Both sides of the boundary between known and unknown opcodes. -/
theorem witness_DecodeRejectsExactlyUnknownOpcodes :
    decode 0x11000000 = .ok (.sw 0 0 0 0) ∧ decode 0x12000000 = .error (.unknownOpcode 18) ∧
    decode 0x13000000 = .error (.unknownOpcode 19) ∧ decode 0x14000000 = .ok (.halt 0 0 0 0) ∧
    decode 0x15000000 = .error (.unknownOpcode 21) := by refine ⟨?_, ?_, ?_, ?_, ?_⟩ <;> rfl
/-- The most negative and the largest immediate. -/
theorem witness_ImmediateIsSignExtended :
    (decodeRecord 0x800).imm = 0xFFFFF800 ∧ (decodeRecord 0x7FF).imm = 0x7FF := by decide +kernel
/-- The word at the program counter, and a word in decode. -/
theorem witness_StepRunsTheDecodedInstruction :
    (stageWord ((State.reset.withFetchWord 32 0x14000000).core 0) .fetch = some 0x14000000 ∧
      decode 0x14000000 = .ok (.halt 0 0 0 0)) ∧
    (stageWord (sAdd.core 0) .decode = some 0x00201005 ∧ decode 0x00201005 = .ok (.add 2 0 1 5)) :=
  ⟨⟨by decide +kernel, rfl⟩, ⟨by decide +kernel, rfl⟩⟩
/-- The unknown word in each of the four stages. -/
theorem witness_UnknownOpcodeIsNoOp :
    decode 0x122347FF = .error (.unknownOpcode 18) ∧
    (∀ st : Stage, st ∈ [Stage.decode, .execute, .memory, .writeback] → stageWord (sUnknown.core 0) st = some 0x122347FF) ∧
    stageWord ((State.reset.withFetchWord 32 0x122347FF).core 0) .fetch = some 0x122347FF :=
  ⟨rfl, by intro st h; fin_cases h <;> rfl, by decide +kernel⟩
/-- Two states that agree on core 0 and differ in the bus and in core 1. -/
theorem witness_CoresAreIndependentInEvaluation :
    sWaiting.core 0 = (sFlush 0).core 0 ∧ sWaiting.core 1 ≠ (sFlush 0).core 1 ∧
    (∃ u, evalStages schedule (beginCycle sWaiting) = .next u) ∧
    (∃ u, evalStages schedule (beginCycle (sFlush 0)) = .next u) :=
  ⟨by decide +kernel, by decide +kernel, exists_next (by decide +kernel), exists_next (by decide +kernel)⟩

/-! ## Witnesses: the stages of the instructions -/

theorem witness_AddSubMulResults : (at0 .execute (withRegs 5 7)).focus.stage = .execute := by rfl
theorem witness_BitwiseResults : (at0 .execute (withRegs 5 7)).focus.stage = .execute := by rfl
theorem witness_ShiftResults : (at0 .execute (withRegs 5 32)).focus.stage = .execute := by rfl
theorem witness_LoadStoreAddress : (at0 .execute (withRegs 0xFFFFFFFF 1)).focus.stage = .execute := by rfl
/-- The boundary opcodes 0, 8 and 16, with a discarded and a kept destination. -/
theorem witness_ProducersWriteTheirDestination :
    ((Instr.add 0 2 3 0).op ≤ 8 ∧ (Instr.srl 2 2 3 0).op ≤ 8 ∧ (Instr.lw 1 2 3 0).op = 16) ∧
    (at0 .writeback sWb).focus.stage = .writeback ∧ (at0 .memory sLoad).focus.stage = .memory := by decide +kernel
theorem witness_BranchesResolveInDecode :
    (at0 .decode sBeq).focus.stage = .decode ∧ hazard (at0 .decode sBeq).focusCore [2, 3, 4] = false := by decide +kernel
theorem witness_JalLinksAndJumps :
    (at0 .decode sJal).focus.stage = .decode ∧ hazard (at0 .decode sJal).focusCore [0, 0, 1] = false ∧
    (at0 .execute sJal).focus.stage = .execute ∧ (at0 .memory sJal).focus.stage = .memory ∧
    (at0 .writeback sJal).focus.stage = .writeback := by decide +kernel
theorem witness_HaltStopsTheCore :
    (at0 .decode sHalt).focus.stage = .decode ∧ hazard (at0 .decode sHalt).focusCore [0, 0] = false ∧
    (at0 .execute sHalt).focus.stage = .execute ∧ (at0 .memory sHalt).focus.stage = .memory ∧
    (at0 .writeback sHalt).focus.stage = .writeback := by decide +kernel
/-- The boundary opcodes 9, 14 and 17. -/
theorem witness_BranchesAndStoresWriteNoRegister :
    (9 ≤ (Instr.beq 1 0 0 0).op ∧ (Instr.beq 1 0 0 0).op ≤ 14) ∧ (9 ≤ (Instr.bge 1 0 0 0).op ∧ (Instr.bge 1 0 0 0).op ≤ 14) ∧
    (Instr.sw 1 0 0 0).op = 17 ∧ (at0 .writeback sWb).focus.stage = .writeback ∧
    (at0 .memory sBeq).focus.stage = .memory ∧ (at0 .execute sBeq).focus.stage = .execute := by decide +kernel
/-- Register 2 is being written from writeback, register 3 is not: a hazard on `rs`, on the `rd` of `sw` alone, and none. -/
theorem witness_DecodeStallsOnHazard :
    (at0 .decode sWb).focus.stage = .decode ∧
    hazard (at0 .decode sWb).focusCore [2, 3] = true ∧
    (Instr.sw 2 3 4 0).op = 17 ∧ hazard (at0 .decode sWb).focusCore [3, 4, 2] = true ∧
    hazard (at0 .decode sWb).focusCore [3, 3] = false ∧ hazard (at0 .decode sWb).focusCore [3, 4, 5] = false := by
  decide +kernel
theorem witness_DecodeStallSignal : ∃ u, evalStages schedule (beginCycle sAdd) = .next u := exists_next (by decide +kernel)
/-- Fetch enabled, and suppressed by a halted core. -/
theorem witness_FetchStage :
    (at0 .fetch sAdd).focus.stage = .fetch ∧ fetchEnable (at0 .fetch sAdd).focusCore = true ∧
    (at0 .fetch sDone).focus.stage = .fetch ∧ fetchEnable (at0 .fetch sDone).focusCore = false := by decide +kernel
/-- A hit on a first access and on a retry. -/
theorem witness_LoadHit :
    (at0 .memory sLoad).focus.stage = .memory ∧
    ∀ s ∈ [at0 .memory sLoad, at0 .memory sRetry], s.focusCore.mbox.pending = false ∧
      (s.focusCore.cache.line (addrIndex (addrOfWord s.focusCore.slotMEM.result))).state ≠ .invalid ∧
      (s.focusCore.cache.line (addrIndex (addrOfWord s.focusCore.slotMEM.result))).tag =
        addrTag (addrOfWord s.focusCore.slotMEM.result) := by decide +kernel
/-- A miss on an Invalid line, and on a valid line with another tag. -/
theorem witness_LoadMiss :
    (at0 .memory (accessing 0x10321004 0x306 3 .invalid)).focus.stage = .memory ∧
    (at0 .memory (accessing 0x10321004 0x306 3 .invalid)).focusCore.mbox.pending = false ∧
    ((accessing 0x10321004 0x306 3 .invalid).line 0 (addrIndex 0x306)).state = .invalid ∧
    ((accessing 0x10321004 0x306 4 .modified).line 0 (addrIndex 0x306)).tag ≠ addrTag 0x306 := by decide +kernel
/-- A line held Modified, and one held Exclusive. -/
theorem witness_StoreHit :
    ∀ s ∈ [at0 .memory sStore, at0 .memory (accessing 0x11221004 0x306 3 .exclusive)],
      s.focus.stage = .memory ∧ s.focusCore.mbox.pending = false ∧
      (s.focusCore.cache.line (addrIndex (addrOfWord s.focusCore.slotMEM.result))).tag =
        addrTag (addrOfWord s.focusCore.slotMEM.result) ∧
      (s.focusCore.cache.line (addrIndex (addrOfWord s.focusCore.slotMEM.result))).Owned := by decide +kernel
/-- A Shared line, an Invalid line, a line with another tag. -/
theorem witness_StoreFailsWithoutOwnership :
    (at0 .memory (accessing 0x11221004 0x306 3 .shared)).focus.stage = .memory ∧
    (at0 .memory (accessing 0x11221004 0x306 3 .shared)).focusCore.mbox.pending = false ∧
    ((accessing 0x11221004 0x306 3 .shared).line 0 (addrIndex 0x306)).state = .shared ∧
    ((accessing 0x11221004 0x306 3 .invalid).line 0 (addrIndex 0x306)).state = .invalid ∧
    ((accessing 0x11221004 0x306 4 .modified).line 0 (addrIndex 0x306)).tag ≠ addrTag 0x306 := by decide +kernel
theorem witness_WaitingLoadOrStoreOnlyStalls :
    (Instr.lw 3 2 1 4).op = 16 ∧ (Instr.sw 3 2 1 4).op = 17 ∧ (at0 .memory sWaiting).focus.stage = .memory ∧
    (at0 .memory sWaiting).focusCore.mbox.pending = true := by decide +kernel

/-! ## Witnesses: the clock edge and the controller -/

theorem witness_EdgeWithMemoryStalled :
    ((sWb.core 0).setMemStall true).slotMEM.stall = true ∧
    ({ (sWb.core 0).setMemStall true with wrPending := true } : Core).wrPending = true := by decide +kernel
theorem witness_EdgeAdvance :
    (sAdd.core 0).slotMEM.stall = false ∧ (sAdd.core 0).slotID.stall = false ∧
    ((sAdd.core 0).setDecStall true).slotMEM.stall = false ∧ ((sAdd.core 0).setDecStall true).slotID.stall = true := by
  decide +kernel
/-- A pending write to register 2, and no pending write. -/
theorem witness_EdgeRegisterCommit :
    (writeback 2 (sWb.core 0)).wrPending = true ∧ (writeback 2 (sWb.core 0)).wrDest ≠ 0 ∧
    (writeback 2 (sWb.core 0)).wrDest ≠ 1 ∧ (sWb.core 0).wrPending = false := by decide +kernel
/-- No request anywhere; a cooldown of 1 and of 16. -/
theorem witness_IdleAndCooldownSteps :
    (State.reset.bus.busy = false ∧
      ∀ c : CoreId, ¬ ((State.reset.core c).mbox.pending = true ∧ (State.reset.core c).mbox.done = false)) ∧
    ((sFill 1 0).bus.busy = true ∧ 0 < (sFill 1 0).bus.cooldown ∧ 0 < (sFill 16 0).bus.cooldown) := by decide +kernel
theorem witness_EvictionFlushStarts :
    sEvict.Selects 0 .read 0x306 ∧ (sEvict.line 0 (addrIndex 0x306)).state = .modified ∧
    (sEvict.line 0 (addrIndex 0x306)).tag ≠ addrTag 0x306 := by decide +kernel
theorem witness_SnoopFlushStarts :
    sDirty.Coherent ∧ sDirty.Selects 0 .read 0x306 ∧
    ¬ ((sDirty.line 0 (addrIndex 0x306)).state = .modified ∧ (sDirty.line 0 (addrIndex 0x306)).tag ≠ addrTag 0x306) ∧
    (sDirty.line 1 (addrIndex 0x306)).state = .modified ∧ (sDirty.line 1 (addrIndex 0x306)).tag = addrTag 0x306 := by
  decide +kernel
/-- Granted with another holder. -/
theorem witness_GrantSnoops :
    sSnooped.Selects 0 .read 0x306 ∧
    ¬ ((sSnooped.line 0 (addrIndex 0x306)).state = .modified ∧ (sSnooped.line 0 (addrIndex 0x306)).tag ≠ addrTag 0x306) ∧
    (∀ o : CoreId, o ≠ 0 →
      ¬ ((sSnooped.line o (addrIndex 0x306)).state = .modified ∧ (sSnooped.line o (addrIndex 0x306)).tag = addrTag 0x306)) ∧
    (sSnooped.core 1).cache.holds 0x306 = true := by decide +kernel
/-- The first and the last word that does not finalize. -/
theorem witness_FillMovesOneWord :
    ∀ n ∈ [(0 : Offset), 2], (sFill 0 n).bus.busy = true ∧ (sFill 0 n).bus.cooldown = 0 ∧ (sFill 0 n).bus.cmd = .read ∧
      (sFill 0 n).bus.cursor.val < 3 := by decide +kernel
theorem witness_FillFinalizes :
    (sFill 0 3).bus.busy = true ∧ (sFill 0 3).bus.cooldown = 0 ∧ (sFill 0 3).bus.cmd = .read ∧
    (sFill 0 3).bus.cursor = 3 := by decide +kernel
theorem witness_FlushMovesOneWord :
    Memory.wf Config.memSize (sFlush 0).mem ∧
    ∀ n ∈ [(0 : Offset), 2], (sFlush n).bus.busy = true ∧ (sFlush n).bus.cooldown = 0 ∧ (sFlush n).bus.cmd = .flush ∧
      (sFlush n).bus.cursor.val < 3 := by decide +kernel
theorem witness_FlushFinalizes :
    Memory.wf Config.memSize (sFlush 3).mem ∧ (sFlush 3).bus.busy = true ∧ (sFlush 3).bus.cooldown = 0 ∧
    (sFlush 3).bus.cmd = .flush ∧ (sFlush 3).bus.cursor = 3 := by decide +kernel

/-! ## Witnesses: reset, invariants, several cycles -/

/-- Empty images, and full ones. -/
theorem witness_ResetValues :
    (∀ c : CoreId, (Vector.replicate 4 ([] : List Word))[c].length ≤ Config.imemSize) ∧
    (∀ c : CoreId, (Vector.replicate 4 (List.replicate Config.imemSize (0 : Word)))[c].length ≤ Config.imemSize) ∧
    ([] : List Word).length ≤ Config.memSize := by
  refine ⟨fun c => ?_, fun c => ?_, ?_⟩ <;> simp
theorem witness_StepKeepsInv : sAdd.Inv ∧ (∃ t, step sAdd = .next t) ∧ (sFlush 3).Inv ∧ ∃ t, step (sFlush 3) = .next t :=
  ⟨sAdd_inv, exists_next (by decide +kernel), sFlush_inv.2, exists_next (by decide +kernel)⟩
theorem witness_EveryCycleCompletes : State.reset.Inv ∧ (sFill 16 0).Inv := ⟨reset_inv, sFill_inv.1⟩
theorem witness_StepKeepsMemoriesCanonical :
    Memory.wf Config.memSize (sFlush 0).mem ∧ (∀ c : CoreId, Memory.wf Config.imemSize ((sFlush 0).core c).imem) ∧
    ∃ t, step (sFlush 0) = .next t :=
  ⟨by decide +kernel, by decide +kernel, exists_next (by decide +kernel)⟩
/-- A step that changes the memory word at 0x304. -/
theorem witness_MemoriesChangeOnlyByFlush :
    ∃ t, step (sFlush 0) = .next t ∧ decide (t.mem.read 0x304 ≠ (sFlush 0).mem.read 0x304) = true :=
  exists_afterStep (by decide +kernel)
/-- A step that changes register 2, the lowest general register. -/
theorem witness_RegistersChangeOnlyByWriteback :
    sWb.Inv ∧ ∃ t, step sWb = .next t ∧ decide ((t.core 0).x[2] ≠ (sWb.core 0).x[2]) = true :=
  ⟨sWb_inv, exists_afterStep (by decide +kernel)⟩
theorem witness_HaltedCoreIsFrozen : sDone.Inv ∧ (∃ t, step sDone = .next t) ∧ (sDone.core 0).halted = true :=
  ⟨sDone_inv, exists_next (by decide +kernel), by decide +kernel⟩
theorem witness_EndOfRunIsDrained : sDone.Inv ∧ sDone.finished = true := ⟨sDone_inv, by decide +kernel⟩
theorem witness_CountersOfOneStep : ∃ t, step sWb = .next t := exists_next (by decide +kernel)
/-- A fill with the whole cooldown to go, a fill and a flush with one word to go. -/
theorem witness_TransactionFinalizesInTime :
    ((sFill 16 0).Inv ∧ (sFill 0 3).Inv ∧ (sFlush 3).Inv) ∧
    ((sFill 16 0).bus.busy = true ∧ (sFill 0 3).bus.busy = true ∧ (sFlush 3).bus.busy = true) ∧
    (sFill 16 0).bus.cmd ≠ .flush :=
  ⟨⟨sFill_inv.1, sFill_inv.2.2, sFlush_inv.2⟩, by decide +kernel, by decide +kernel⟩
theorem witness_RetrySucceeds : sRetry.Inv ∧ (sRetry.core 0).mbox.done = true ∧ ∃ t, step sRetry = .next t :=
  ⟨sRetry_inv, by decide +kernel, exists_next (by decide +kernel)⟩
/-- The instruction-level state that agrees with core 0. -/
def seqOf (s : State) : SeqState :=
  { x := (s.core 0).x, pc := (s.core 0).slotID.pc, npc := (s.core 0).pc, stopped := false, mem := [] }
/-- An `add`, and a `jal` at the last instruction address. -/
theorem witness_ResultCommitsFourCyclesLater :
    (sAdd.Inv ∧ (sAdd.core 0).slotID.active = true ∧ decode (sAdd.core 0).slotID.raw = .ok (.add 2 0 1 5) ∧
      (Instr.add 2 0 1 5).op ≤ 8 ∧ (sAdd.core 0).DrainedBehindDecode ∧ (seqOf sAdd).x = (sAdd.core 0).x ∧
      (seqOf sAdd).pc = (sAdd.core 0).slotID.pc) ∧
    (sJal.Inv ∧ (sJal.core 0).slotID.active = true ∧ decode (sJal.core 0).slotID.raw = .ok (.jal 1 0 0 5) ∧
      (Instr.jal 1 0 0 5).op = 15 ∧ (sJal.core 0).DrainedBehindDecode) :=
  ⟨⟨sAdd_inv, by decide +kernel, rfl, by decide +kernel, by decide +kernel, rfl, rfl⟩,
    ⟨sJal_inv, by decide +kernel, rfl, rfl, by decide +kernel⟩⟩
theorem witness_BranchTakesEffectAfterDelaySlot :
    sBeq.Inv ∧ (∃ t, step sBeq = .next t) ∧ (sBeq.core 0).slotID.active = true ∧
    decode (sBeq.core 0).slotID.raw = .ok (.beq 1 0 0 4) ∧ 9 ≤ (Instr.beq 1 0 0 4).op ∧ (Instr.beq 1 0 0 4).op ≤ 15 ∧
    hazard (sBeq.core 0) [0, 0, 1] = false ∧ (sBeq.core 0).MemoryPasses ∧ (sBeq.core 0).redirectPending = false ∧
    (seqOf sBeq).x = (sBeq.core 0).x ∧ (seqOf sBeq).npc = (sBeq.core 0).pc :=
  ⟨sBeq_inv, exists_next (by decide +kernel), by decide +kernel, rfl, by decide +kernel, by decide +kernel,
    by decide +kernel, by decide +kernel, by decide +kernel, rfl, rfl⟩
theorem witness_HaltTakesFourCycles :
    sHalt.Inv ∧ (sHalt.core 0).slotID.active = true ∧ decode (sHalt.core 0).slotID.raw = .ok (.halt 0 0 0 0) ∧
    (Instr.halt 0 0 0 0).op = 20 ∧ (sHalt.core 0).DrainedBehindDecode ∧ (sHalt.core 0).redirectPending = false :=
  ⟨sHalt_inv, by decide +kernel, rfl, rfl, by decide +kernel, by decide +kernel⟩
theorem witness_LoadHitCommitsTwoCyclesLater :
    sLoad.Inv ∧ (sLoad.core 0).slotMEM.active = true ∧ decode (sLoad.core 0).slotMEM.raw = .ok (.lw 3 2 1 4) ∧
    (sLoad.core 0).mbox.pending = false ∧
    (sLoad.core 0).cache.hit (addrOfWord (sLoad.core 0).slotMEM.result) = true :=
  ⟨sLoad_inv, by decide +kernel, rfl, by decide +kernel, by decide +kernel⟩
theorem witness_StoreHitIsPerformedInItsCycle :
    sStore.Inv ∧ (∃ t, step sStore = .next t) ∧ (sStore.core 0).slotMEM.active = true ∧
    decode (sStore.core 0).slotMEM.raw = .ok (.sw 2 2 1 4) ∧ (sStore.core 0).mbox.pending = false ∧
    (sStore.core 0).cache.ownsForWrite (addrOfWord (sStore.core 0).slotMEM.result) = true :=
  ⟨sStore_inv, exists_next (by decide +kernel), by decide +kernel, rfl, by decide +kernel, by decide +kernel⟩

end Sys2Proof.Tests
end

section
/-!
The statements about the architectural state (10_state.md): which of it an instruction reads, what a step may change of
it, and what it holds after reset.
-/

namespace Sys2Proof.Proofs

open Sys2Proof Sys2Proof.Machine

/-! ## The reserved cells: a stage reads the register file through `regOperand` alone (R24) -/

/-- The core with register file `y` in place of its own. -/
def withRegs (k : Core) (y : Vector Word Config.regCount) : Core := { k with x := y }

/-- The register file with `v` and `w` in the cells of registers 0 and 1. -/
def pokeReserved (x : Vector Word Config.regCount) (v w : Word) : Vector Word Config.regCount := (x.set 0 v).set 1 w

/-- No operand read distinguishes the two register files. -/
def SameOperands (x y : Vector Word Config.regCount) : Prop := ∀ n imm, regOperand y n imm = regOperand x n imm

theorem regNum_cases (n : RegNum) : n = 0 ∨ n = 1 ∨ 2 ≤ n.val := by
  revert n; decide

theorem regOperand_general (x : Vector Word Config.regCount) {n : RegNum} (imm : Word) (h : 2 ≤ n.val) :
    regOperand x n imm = x[n] := by
  have h0 : n ≠ 0 := by rintro rfl; exact absurd h (by decide)
  have h1 : n ≠ 1 := by rintro rfl; exact absurd h (by decide)
  simp [regOperand, h0, h1]

theorem getElem_pokeReserved (x : Vector Word Config.regCount) (v w : Word) {n : RegNum} (h : 2 ≤ n.val) :
    (pokeReserved x v w)[n] = x[n] := by
  have h0 : 0 ≠ n.val := by omega
  have h1 : 1 ≠ n.val := by omega
  simp [pokeReserved, h0, h1]

/-- The cells of registers 0 and 1 are read by no operand read. -/
theorem sameOperands_pokeReserved (x : Vector Word Config.regCount) (v w : Word) :
    SameOperands x (pokeReserved x v w) := by
  intro n imm
  obtain rfl | rfl | h := regNum_cases n
  · rfl
  · rfl
  · rw [regOperand_general _ imm h, regOperand_general _ imm h, getElem_pokeReserved x v w h]

section Stages

variable {k : Core} {y : Vector Word Config.regCount}

theorem opval_withRegs (h : SameOperands k.x y) (n : RegNum) (imm : Word) :
    opval (withRegs k y) n imm = opval k n imm := h n imm

theorem decodeStage_withRegs (srcs : List RegNum) {act : Core → Core} (h : act (withRegs k y) = withRegs (act k) y) :
    decodeStage srcs act (withRegs k y) = withRegs (decodeStage srcs act k) y := by
  show (if hazard k srcs then _ else act (withRegs k y)) = withRegs (if hazard k srcs then _ else act k) y
  rw [h]
  split <;> rfl

theorem resolve_withRegs (h : SameOperands k.x y) (cond : Word → Word → Bool) (rd rs rt : RegNum) (imm : Word) :
    resolve cond rd rs rt imm (withRegs k y) = withRegs (resolve cond rd rs rt imm k) y := by
  simp only [resolve, opval_withRegs h]
  rfl

theorem executeAlu_withRegs (h : SameOperands k.x y) (alu : Word → Word → Word) (rs rt : RegNum) (imm : Word) :
    executeAlu alu rs rt imm (withRegs k y) = withRegs (executeAlu alu rs rt imm k) y := by
  simp only [executeAlu, opval_withRegs h]
  rfl

theorem executeAddress_withRegs (h : SameOperands k.x y) (rs rt : RegNum) (imm : Word) :
    executeAddress rs rt imm (withRegs k y) = withRegs (executeAddress rs rt imm k) y := by
  simp only [executeAddress, opval_withRegs h]
  rfl

theorem loadStage_withRegs : loadStage (withRegs k y) = withRegs (loadStage k) y := by
  cases hp : k.mbox.pending
  · cases hh : k.cache.hit (addrOfWord k.slotMEM.result) <;> cases hd : k.mbox.done <;>
      simp [loadStage, withRegs, hp, hh, hd] <;> rfl
  · simp [loadStage, withRegs, hp]; rfl

theorem storeStage_withRegs (v : Word) : storeStage v (withRegs k y) = withRegs (storeStage v k) y := by
  cases hp : k.mbox.pending
  · cases ho : k.cache.ownsForWrite (addrOfWord k.slotMEM.result) <;> cases hd : k.mbox.done <;>
      simp [storeStage, writeAttempt, withRegs, hp, ho, hd] <;> rfl
  · simp [storeStage, withRegs, hp]; rfl

theorem writeback_withRegs (d : RegNum) : writeback d (withRegs k y) = withRegs (writeback d k) y := by
  simp only [writeback]
  cases writable d <;> rfl

theorem fetchStage_withRegs : fetchStage (withRegs k y) = withRegs (fetchStage k) y := by
  show (if fetchEnable k then _ else _) = withRegs (if fetchEnable k then _ else _) y
  split <;> rfl

/-! The five stages of each class of instruction. -/

theorem aluStages_withRegs (h : SameOperands k.x y) (alu : Word → Word → Word) (rd rs rt : RegNum) (imm : Word)
    (st : Stage) : aluStages alu rd rs rt imm st (withRegs k y) = withRegs (aluStages alu rd rs rt imm st k) y := by
  cases st with
  | fetch => exact fetchStage_withRegs
  | decode => exact decodeStage_withRegs [rs, rt] rfl
  | execute => exact executeAlu_withRegs h alu rs rt imm
  | memory => rfl
  | writeback => exact writeback_withRegs rd

theorem branchStages_withRegs (h : SameOperands k.x y) (cond : Word → Word → Bool) (rd rs rt : RegNum) (imm : Word)
    (st : Stage) :
    branchStages cond rd rs rt imm st (withRegs k y) = withRegs (branchStages cond rd rs rt imm st k) y := by
  cases st with
  | fetch => exact fetchStage_withRegs
  | decode => exact decodeStage_withRegs [rs, rt, rd] (resolve_withRegs h cond rd rs rt imm)
  | execute => rfl
  | memory => rfl
  | writeback => rfl

theorem jalStages_withRegs (h : SameOperands k.x y) (rd rs rt : RegNum) (imm : Word) (st : Stage) :
    jalStages rd rs rt imm st (withRegs k y) = withRegs (jalStages rd rs rt imm st k) y := by
  cases st with
  | fetch => exact fetchStage_withRegs
  | decode => exact decodeStage_withRegs [rs, rt, rd] (resolve_withRegs h _ rd rs rt imm)
  | execute => rfl
  | memory => rfl
  | writeback => exact writeback_withRegs 15

theorem lwStages_withRegs (h : SameOperands k.x y) (rd rs rt : RegNum) (imm : Word) (st : Stage) :
    lwStages rd rs rt imm st (withRegs k y) = withRegs (lwStages rd rs rt imm st k) y := by
  cases st with
  | fetch => exact fetchStage_withRegs
  | decode => exact decodeStage_withRegs [rs, rt] rfl
  | execute => exact executeAddress_withRegs h rs rt imm
  | memory => exact loadStage_withRegs
  | writeback => exact writeback_withRegs rd

theorem swStages_withRegs (h : SameOperands k.x y) (rd rs rt : RegNum) (imm : Word) (st : Stage) :
    swStages rd rs rt imm st (withRegs k y) = withRegs (swStages rd rs rt imm st k) y := by
  cases st with
  | fetch => exact fetchStage_withRegs
  | decode => exact decodeStage_withRegs [rs, rt, rd] rfl
  | execute => exact executeAddress_withRegs h rs rt imm
  | memory =>
    simp only [swStages, opval_withRegs h]
    exact storeStage_withRegs _
  | writeback => rfl

theorem haltStages_withRegs (rs rt : RegNum) (st : Stage) :
    haltStages rs rt st (withRegs k y) = withRegs (haltStages rs rt st k) y := by
  cases st with
  | fetch => exact fetchStage_withRegs
  | decode => exact decodeStage_withRegs [rs, rt] rfl
  | execute => rfl
  | memory => rfl
  | writeback => rfl

/-- R24: an instruction does the same in every stage whichever of two register files its operand reads cannot tell apart
it runs on. -/
theorem instrStages_withRegs (h : SameOperands k.x y) (i : Instr) (st : Stage) :
    instrStages i st (withRegs k y) = withRegs (instrStages i st k) y := by
  cases i with
  | add | sub | and | or | xor | mul | sll | sra | srl => exact aluStages_withRegs h ..
  | beq | bne | blt | bgt | ble | bge => exact branchStages_withRegs h ..
  | jal => exact jalStages_withRegs h ..
  | lw => exact lwStages_withRegs h ..
  | sw => exact swStages_withRegs h ..
  | halt => exact haltStages_withRegs ..

end Stages

theorem onCore_onCore (s : State) (c : CoreId) (f g : Core → Core) :
    (s.onCore c f).onCore c g = s.onCore c fun k => g (f k) :=
  State.ext_cores (fun d => by by_cases h : d = c <;> simp [State.core_onCore, h]) rfl rfl rfl rfl

theorem onCore_congr (s : State) (c : CoreId) {f g : Core → Core} (h : f (s.core c) = g (s.core c)) :
    s.onCore c f = s.onCore c g :=
  State.ext_cores (fun d => by simp only [State.core_onCore, h]) rfl rfl rfl rfl

/-- Settles O8: a stage reads the register file through `regOperand` alone, which ignores the two cells. -/
theorem noInstructionReadsReservedCells : Obligations.NoInstructionReadsReservedCells := by
  refine ⟨fun k imm => ⟨rfl, rfl, fun n h => regOperand_general k.x imm h⟩, fun i s v w => ?_⟩
  refine ⟨_, exec_eq i s, (exec_eq i _).trans (congrArg _ ?_)⟩
  simp only [State.onFocus, State.onCore_focus, onCore_onCore]
  refine onCore_congr s _ ?_
  have hx : (instrStages i s.focus.stage s.focusCore).x = s.focusCore.x := (kept_instrStages ..).x
  show instrStages i s.focus.stage (withRegs s.focusCore (pokeReserved s.focusCore.x v w)) =
    withRegs (instrStages i s.focus.stage s.focusCore) (pokeReserved (instrStages i s.focus.stage s.focusCore).x v w)
  rw [instrStages_withRegs (sameOperands_pokeReserved _ v w), hx]

/-! ## What a step can do to one core (R300) -/

/-- A step makes of a core what its own evaluation and the clock edge make of it, but for the cache and the mailbox, in
which the controller may have stepped in between (R225, R302). -/
theorem step_core {s t : State} (h : step s = .next t) (c : CoreId) :
    ∃ ca mb, t.core c = clockEdge { evalCore (s.core c).clearSignals with cache := ca, mbox := mb } := by
  obtain ⟨u, hu, rfl⟩ := step_next h
  have hc : (evalCore (s.core c).clearSignals).OnlyCacheMailbox (u.core c) := by
    simpa using (busFrame_busStep hu).core c
  refine ⟨(u.core c).cache, (u.core c).mbox, ?_⟩
  rw [State.core_endCycle]
  exact congrArg clockEdge hc

/-! ## The clock edge, field by field (R200 to R206) -/

/-- The stage advance touches nothing but the slots (R200 to R203). -/
theorem edgeSlots_frame (k : Core) :
    ∃ a b c d e, edgeSlots k = { k with slotIF := a, slotID := b, slotEX := c, slotMEM := d, slotWB := e } := by
  rcases edgeSlots_cases k with ⟨-, h⟩ | ⟨-, -, h⟩ | ⟨-, -, h⟩ <;> exact ⟨_, _, _, _, _, h⟩

/-- The clock edge writes no instruction memory (R38). -/
@[simp] theorem clockEdge_imem (k : Core) : (clockEdge k).imem = k.imem := by
  obtain ⟨_, _, _, _, _, h⟩ := edgeSlots_frame (edgeCounters k)
  simp [clockEdge, h]

/-- R204: a general register after the edge is the pending write to it, or what it was. -/
theorem clockEdge_general (k : Core) {n : RegNum} (h : 2 ≤ n.val) :
    (clockEdge k).x[n] = if k.wrPending = true ∧ k.wrDest = n then k.wrValue else k.x[n] := by
  obtain ⟨_, _, _, _, _, he⟩ := edgeSlots_frame (edgeCounters k)
  have hx : (pokeReserved k.x 0 (aliasValue (edgeSlots (edgeCounters k))))[n] = k.x[n] := getElem_pokeReserved k.x _ _ h
  have hy : (clockEdge k).x = if k.wrPending then
      (pokeReserved k.x 0 (aliasValue (edgeSlots (edgeCounters k)))).set k.wrDest k.wrValue
      else pokeReserved k.x 0 (aliasValue (edgeSlots (edgeCounters k))) := by
    simp [clockEdge, committedRegs, pokeReserved, he]
  rw [hy]
  cases hp : k.wrPending
  · simpa using hx
  · by_cases hd : k.wrDest = n
    · simp [hd]
    · have hv : k.wrDest.val ≠ n.val := fun e => hd (Fin.ext e)
      simpa [hd, hv] using hx

/-- R203: the stage advance of a core that is not stalled. -/
theorem edgeSlots_unstalled {k : Core} (hm : k.slotMEM.stall = false) (hd : k.slotID.stall = false) :
    edgeSlots k = { k with
      slotWB := k.slotMEM.advance k.sig.memResult
      slotMEM := k.slotEX.advance k.sig.exResult
      slotEX := k.slotID.advance 0
      slotID := k.slotIF
      slotIF := Slot.bubble } := by
  simp [edgeSlots, hm, hd]

/-- R201: a bubble moves as a bubble. -/
theorem advance_inactive {S : Slot} (h : S.active = false) (v : Word) : S.advance v = Slot.bubble := by
  simp [Slot.advance, h]

/-! ## System memory: only a flush word changes it (R48, R76) -/

theorem snoopScan_mem (r : CoreId) (k : BusCmd) (a : Addr) (os : List CoreId) (s : State) :
    (snoopScan r k a os s).mem = s.mem := by
  induction os generalizing s with
  | nil => rfl
  | cons o os ih =>
    simp only [snoopScan]
    split
    · exact ih s
    · split
      · split
        · rfl
        · exact ih _
      · exact ih s

theorem serve_mem (s : State) (r : CoreId) (k : BusCmd) (a : Addr) : (serve s r k a).mem = s.mem := by
  simp only [serve]
  split
  · rfl
  · exact snoopScan_mem r k a allCores s

theorem idleStep_mem {s t : State} (h : idleStep s = .next t) : t.mem = s.mem := by
  rcases idleStep_cases h with ⟨-, rfl⟩ | ⟨r, -, -, rfl⟩
  · rfl
  · exact serve_mem ..

/-- The address of the word a flush moves (R268). -/
def flushAddr (b : Bus) : Addr := b.addr + BitVec.ofNat Config.addrBits b.cursor

theorem flushWord_mem (s : State) : ∃ w, (flushWord s).mem = s.mem.write (flushAddr s.bus).toNat w := ⟨_, rfl⟩

theorem flushAddr_toNat (b : Bus) : (flushAddr b).toNat = (b.addr.toNat + b.cursor.val) % 2 ^ 20 := by
  have ha : (flushAddr b).toNat = (b.addr.toNat + b.cursor.val % 2 ^ 20) % 2 ^ 20 := BitVec.toNat_add ..
  rw [ha, Nat.add_mod_mod]

/-- What the controller step can do to system memory: nothing, or write the word a flush moves. -/
theorem busStep_mem {s t : State} (h : busStep s = .next t) :
    t.mem = s.mem ∨
      (s.bus.busy = true ∧ s.bus.cmd = .flush ∧ s.bus.cooldown = 0 ∧
        ∃ w, t.mem = s.mem.write (flushAddr s.bus).toNat w) := by
  rcases busStep_cases h with ⟨-, h⟩ | ⟨-, -, rfl⟩ | ⟨hb, hc, h⟩
  · exact .inl (idleStep_mem h)
  · exact .inl rfl
  · rcases transferStep_cases h with ⟨-, -, rfl⟩ | ⟨-, -, rfl⟩ | ⟨-, -, rfl⟩ | ⟨hf, -, rfl⟩ | ⟨hf, -, rfl⟩
    · exact .inl rfl
    · exact .inl rfl
    · exact .inl rfl
    · exact .inr ⟨hb, hf, hc, flushWord_mem s⟩
    · exact .inr ⟨hb, hf, hc, flushWord_mem s⟩

/-- What a step can do to system memory: nothing, or write the word a flush moves. -/
theorem step_mem {s t : State} (h : step s = .next t) :
    t.mem = s.mem ∨
      (s.bus.busy = true ∧ s.bus.cmd = .flush ∧ s.bus.cooldown = 0 ∧
        ∃ w, t.mem = s.mem.write (flushAddr s.bus).toNat w) := by
  obtain ⟨u, hu, rfl⟩ := step_next h
  simpa using busStep_mem hu

/-- R38: a step writes no instruction memory. -/
theorem step_imem {s t : State} (h : step s = .next t) (c : CoreId) : (t.core c).imem = (s.core c).imem := by
  obtain ⟨ca, mb, ht⟩ := step_core h c
  calc (t.core c).imem = (evalCore (s.core c).clearSignals).imem := by rw [ht, clockEdge_imem]
    _ = (s.core c).clearSignals.imem := (kept_evalCore _).imem
    _ = (s.core c).imem := rfl

/-- Settles O47: the one write a step may make to system memory keeps its form, and instruction memories stay. -/
theorem stepKeepsMemoriesCanonical : Obligations.StepKeepsMemoriesCanonical := by
  intro s t hm hi h
  refine ⟨?_, fun c => by rw [step_imem h c]; exact hi c⟩
  rcases step_mem h with e | ⟨-, -, -, w, e⟩ <;> rw [e]
  · exact hm
  · exact Memory.wf_write hm (flushAddr s.bus).isLt w

/-- Settles O48: an address that reads differently is not an address other than the flushed one. -/
theorem memoriesChangeOnlyByFlush : Obligations.MemoriesChangeOnlyByFlush := by
  refine fun s t h => ⟨step_imem h, fun a ha => ?_⟩
  rcases step_mem h with e | ⟨hb, hf, hc, w, e⟩ <;> rw [e] at ha
  · exact absurd rfl ha
  · refine ⟨hb, hf, hc, ?_⟩
    rw [← flushAddr_toNat]
    by_contra hne
    exact ha (Memory.read_write_other s.mem w hne)

/-! ## General registers: only the writeback slot's instruction changes one (R20, R36) -/

/-- The register write that writeback latches: the slot's destination and result (R196). -/
theorem evaluated_write {k e : Core} (h : k.Evaluated e) {n : RegNum} (hp : e.wrPending = true) (hd : e.wrDest = n) :
    k.slotWB.dest = some n ∧ e.wrValue = k.slotWB.result := by
  obtain ⟨d, hs⟩ := Option.isSome_iff_exists.1 (h.wrPending.symm.trans hp)
  obtain rfl : d = n := (h.wrDest d hs).symm.trans hd
  exact ⟨hs, h.wrValue d hs⟩

/-- Settles O49: the commit of the clock edge writes a general register only from the pending-write latch, which holds
what this cycle's writeback stage latched. -/
theorem registersChangeOnlyByWriteback : Obligations.RegistersChangeOnlyByWriteback := by
  intro s t c n hinv h hn hne
  obtain ⟨-, hw, -, -, -⟩ := (hinv.cores c).quiet
  have hev : (s.core c).clearSignals.Evaluated (evalCore (s.core c).clearSignals) := evalCore_evaluated hw rfl rfl
  obtain ⟨ca, mb, ht⟩ := step_core h c
  have hx : (t.core c).x[n] = _ := (congrArg (fun k : Core => k.x[n]) ht).trans (clockEdge_general _ hn)
  split at hx
  · rename_i hp
    obtain ⟨hdest, hval⟩ := evaluated_write hev hp.1 hp.2
    exact ⟨hdest, hx.trans hval⟩
  · exact absurd (hx.trans (congrArg (fun x : Vector Word Config.regCount => x[n]) hev.kept.x)) hne

/-! ## A halted core (R34, R331) -/

/-- A stage whose slot is a bubble does what a bubble does. -/
theorem evalStageCore_bubble {st : Stage} {k : Core} (h : stageWord k st = none) :
    evalStageCore st k = bubbleStages st k := by
  simp only [evalStageCore, h]

/-- The evaluation of a core with no instruction in its pipeline and fetch stopped: `pc` and the redirect are to stay
(R195, R197). -/
theorem evalCore_empty {k : Core} (hf : k.stopFetch = true) (hD : k.slotID.active = false)
    (hE : k.slotEX.active = false) (hM : k.slotMEM.active = false) (hW : k.slotWB.active = false) :
    evalCore k = { k with sig := { k.sig with
      memResult := k.slotMEM.result
      fetchEn := false
      pcNext := k.pc
      redirectPendingNext := redirValid k
      redirectTargetNext := redirTarget k } } := by
  have hw : evalStageCore .writeback k = k := evalStageCore_bubble (by simp [stageWord, hW])
  have hm : evalStageCore .memory k = passMemory k := evalStageCore_bubble (by simp [stageWord, hM])
  have hx : evalStageCore .execute (passMemory k) = passMemory k :=
    evalStageCore_bubble (by simp [stageWord, passMemory, hE])
  have hd : evalStageCore .decode (passMemory k) = passMemory k :=
    evalStageCore_bubble (by simp [stageWord, passMemory, hD])
  rw [evalCore, hw, hm, hx, hd, evalStageCore_fetch]
  rcases fetchStage_cases (passMemory k) with ⟨he, -⟩ | ⟨-, e⟩
  · simp [fetchEnable, passMemory, hf] at he
  · exact e

/-- R204: the commit of a core with no write pending and a bubble in decode rewrites the hardwired zero alone. -/
theorem committedRegs_idle {k : Core} (hw : k.wrPending = false) (hD : k.slotID.active = false) (h0 : k.x[0] = 0) :
    committedRegs k = k.x := by
  have hz : k.x.set 0 0 = k.x := by rw [← h0]; exact Vector.set_getElem_self _
  have h1 : k.x.set 1 k.x[1] = k.x := Vector.set_getElem_self _
  simp only [committedRegs, aliasValue, hw, hD, hz, h1, Bool.false_eq_true, if_false]

/-- R206: a halted core that is not stalled counts nothing. -/
theorem edgeCounters_halted_unstalled {k : Core} (hh : k.halted = true) (hd : k.slotID.stall = false)
    (hm : k.slotMEM.stall = false) : edgeCounters k = k := by
  have hc : (edgeCounters k).counters = k.counters := by simp [edgeCounters, hh, hd, hm]
  show { k with counters := (edgeCounters k).counters } = k
  rw [hc]

/-- R200 to R206: the clock edge of a halted core with no instruction in its pipeline. -/
theorem clockEdge_halted {k : Core} (hh : k.halted = true) (hIF : k.slotIF = Slot.bubble) (hD : k.slotID.active = false)
    (hE : k.slotEX.active = false) (hM : k.slotMEM.active = false) (hd : k.slotID.stall = false)
    (hm : k.slotMEM.stall = false) (hw : k.wrPending = false) (h0 : k.x[0] = 0) :
    (clockEdge k).halted = true ∧ (clockEdge k).x = k.x ∧ (clockEdge k).pc = k.sig.pcNext ∧
      (clockEdge k).counters = k.counters ∧ (clockEdge k).slotID.active = false ∧
      (clockEdge k).DrainedBehindDecode := by
  have hs : edgeSlots (edgeCounters k) = { k with
      slotWB := Slot.bubble, slotMEM := Slot.bubble, slotEX := Slot.bubble, slotID := Slot.bubble,
      slotIF := Slot.bubble } := by
    rw [edgeCounters_halted_unstalled hh hd hm, edgeSlots_unstalled hm hd, advance_inactive hM, advance_inactive hE,
      advance_inactive hD, hIF]
  have hx : committedRegs (edgeSlots (edgeCounters k)) = k.x := by
    rw [hs]; exact committedRegs_idle hw rfl h0
  refine ⟨?_, hx, ?_, ?_, ?_, ?_, ?_, ?_⟩ <;> simp [clockEdge, hs, hh, Slot.bubble]

/-- Settles O50: with no instruction in the pipeline and fetch stopped, the evaluation drives no change and the clock
edge moves bubbles. -/
theorem haltedCoreIsFrozen : Obligations.HaltedCoreIsFrozen := by
  intro s t c hinv h hh
  have hc := hinv.cores c
  obtain ⟨hIF, hw, -, -, -⟩ := hc.quiet
  obtain ⟨-, -, -, -, hempty⟩ := hc.halt
  obtain ⟨hf, hD, hE, hM, hW⟩ := hempty hh
  obtain ⟨ca, mb, ht⟩ := step_core h c
  rw [evalCore_empty (k := (s.core c).clearSignals) hf hD hE hM hW] at ht
  rw [ht]
  exact clockEdge_halted hh hIF hD hE hM rfl rfl hw hc.zero

/-! ## Reset (R53) -/

/-- Loading the images fills the instruction memory of each core and changes nothing else of it. -/
theorem core_loadImages (s : State) (images : Vector (List Word) Config.coreCount) (memImage : List Word) (c : CoreId) :
    (s.loadImages images memImage).core c =
      { s.core c with imem := Memory.ofImage 0 (images[c].take Config.imemSize) } := by
  simp [State.core, State.loadImages]

/-- After reset every core has its reset value and its own image. -/
theorem core_reset_loadImages (images : Vector (List Word) Config.coreCount) (memImage : List Word) (c : CoreId) :
    (State.reset.loadImages images memImage).core c =
      { Core.reset c with imem := Memory.ofImage 0 (images[c].take Config.imemSize) } := by
  rw [core_loadImages, reset_core]

/-- An image that fits its memory is read back word by word, and 0 behind its end (R101, R352). -/
theorem read_ofImage_take {image : List Word} {n : Nat} (h : image.length ≤ n) (a : Nat) :
    (Memory.ofImage 0 (image.take n)).read a = image.getD a 0 := by
  rw [List.take_of_length_le h]
  simpa using Memory.read_ofImage image 0 a

theorem wf_ofImage_take (image : List Word) (n : Nat) : Memory.wf n (Memory.ofImage 0 (image.take n)) :=
  Memory.wf_ofImage _ 0 n (by simp)

@[simp] theorem line_cacheReset (i : LineIndex) : Cache.reset.line i = { tag := 0, state := .invalid } :=
  Vector.getElem_replicate _

@[simp] theorem word_cacheReset (i : LineIndex) (o : Offset) : Cache.reset.word i o = 0 := by
  simp [Cache.word, Cache.reset]

@[simp] theorem x_coreReset (c : CoreId) (n : RegNum) : (Core.reset c).x[n] = 0 :=
  Vector.getElem_replicate _

/-- Settles O42: every core is at its reset value with its image in place. -/
theorem resetValues : Obligations.ResetValues := by
  intro images memImage hi hm s
  refine ⟨fun c => ?_, rfl, fun a _ => read_ofImage_take hm a, rfl⟩
  have hl : ∀ i, s.line c i = (s.core c).cache.line i := fun _ => rfl
  simp only [hl, show s.core c = _ from core_reset_loadImages images memImage c]
  exact ⟨x_coreReset c, rfl, rfl, rfl, rfl, rfl, rfl, rfl, rfl, rfl, rfl, rfl, rfl, rfl, rfl,
    fun p _ => read_ofImage_take (hi c) p, line_cacheReset, word_cacheReset, rfl⟩

/-- A core right after reset meets its invariant, whatever instruction memory in canonical form it has. -/
theorem coreReset_inv (c : CoreId) {im : Memory} (h : Memory.wf Config.imemSize im) :
    Core.Inv c { Core.reset c with imem := im } where
  quiet := ⟨rfl, rfl, rfl, rfl, rfl⟩
  zero := x_coreReset c 0
  redirect := nofun
  halt := ⟨nofun, nofun, nofun, nofun, nofun⟩
  mailbox := ⟨rfl, nofun, nofun, nofun⟩
  imem := h

/-- Settles O44: after reset the pipelines are empty, the bus is idle and no line is valid, so every clause about an
instruction, a transaction or an owned line holds with nothing to check; the images are in canonical form. -/
theorem invAfterReset : Obligations.InvAfterReset := by
  intro images memImage
  refine
    { cores := fun c => ?_, bus := ?_, fill := nofun, flush := nofun, serves := nofun, coherent := ?_
      mem := wf_ofImage_take memImage Config.memSize, focus := rfl }
  · rw [core_reset_loadImages]
    exact coreReset_inv c (wf_ofImage_take _ _)
  · exact ⟨nofun, fun _ => ⟨rfl, rfl⟩, Nat.zero_le _, nofun, fun _ => rfl, .inl rfl⟩
  · intro c d _ i _
    left
    rw [State.line, core_reset_loadImages]
    exact congrArg TagState.state (line_cacheReset i)

end Sys2Proof.Proofs
end

section
/-!
The statement about a store across one cycle (20_memory.md): it is performed in its own cycle, and the controller, which
steps after the evaluation, leaves the words of its core's cache alone.
-/

namespace Sys2Proof.Proofs

open Sys2Proof Sys2Proof.Machine

/-! ## The data array under a controller step: only a fill writes it, in the requester's cache (R40, R267) -/

theorem data_onCore (s : State) (d c : CoreId) {f : Core → Core}
    (h : (f (s.core d)).cache.data = (s.core d).cache.data) :
    ((s.onCore d f).core c).cache.data = (s.core c).cache.data := by
  rw [State.core_onCore]
  split
  · rename_i e; rw [e, h]
  · rfl

theorem data_setLineState (s : State) (o c : CoreId) (i : LineIndex) (m : Mesi) :
    ((s.setLineState o i m).core c).cache.data = (s.core c).cache.data :=
  data_onCore s o c rfl

theorem data_snoopScan (r : CoreId) (k : BusCmd) (a : Addr) (os : List CoreId) (s : State) (c : CoreId) :
    ((snoopScan r k a os s).core c).cache.data = (s.core c).cache.data := by
  induction os generalizing s with
  | nil => rfl
  | cons o os ih =>
    simp only [snoopScan]
    split
    · exact ih s
    · split
      · split
        · rfl
        · rw [ih, data_setLineState]; rfl
      · exact ih s

theorem data_serve (s : State) (r : CoreId) (k : BusCmd) (a : Addr) (c : CoreId) :
    ((serve s r k a).core c).cache.data = (s.core c).cache.data := by
  simp only [serve]
  split
  · rfl
  · exact data_snoopScan r k a allCores s c

theorem data_idleStep {s t : State} (h : idleStep s = .next t) (c : CoreId) :
    (t.core c).cache.data = (s.core c).cache.data := by
  rcases idleStep_cases h with ⟨-, rfl⟩ | ⟨r, -, -, rfl⟩
  · rfl
  · exact data_serve ..

theorem data_fillWord (s : State) {c : CoreId} (hc : c ≠ s.bus.origid) :
    ((fillWord s).core c).cache.data = (s.core c).cache.data := by
  rw [fillWord, State.onBus_core, State.core_onCore_other _ _ _ _ hc]

theorem data_finalizeFill (s : State) (m : Mesi) (c : CoreId) :
    ((finalizeFill s m).core c).cache.data = (s.core c).cache.data := by
  rw [finalizeFill, State.onBus_core]
  exact data_onCore s s.bus.origid c rfl

/-- A controller step leaves the words of a core's cache alone unless it moves a word of that core's own request. -/
theorem data_busStep {s t : State} (h : busStep s = .next t) {c : CoreId}
    (hc : s.bus.busy = true → s.bus.cmd = .read ∨ s.bus.cmd = .readExclusive → c ≠ s.bus.origid) :
    (t.core c).cache.data = (s.core c).cache.data := by
  rcases busStep_cases h with ⟨-, h⟩ | ⟨-, -, rfl⟩ | ⟨hb, -, h⟩
  · exact data_idleStep h c
  · rfl
  · rcases transferStep_cases h with ⟨hk, -, rfl⟩ | ⟨hk, -, rfl⟩ | ⟨hk, -, rfl⟩ | ⟨-, -, rfl⟩ | ⟨-, -, rfl⟩
    · exact data_fillWord s (hc hb hk)
    · rw [data_finalizeFill, data_fillWord s (hc hb (.inl hk))]
    · rw [data_finalizeFill, data_fillWord s (hc hb (.inr hk))]
    · rfl
    · exact data_setLineState ..

/-- The clock edge touches no cache (R200 to R206). -/
@[simp] theorem clockEdge_cache (k : Core) : (clockEdge k).cache = k.cache := by
  obtain ⟨_, _, _, _, _, h⟩ := edgeSlots_frame (edgeCounters k)
  simp [clockEdge, h]

/-- R245, R264: a core with no request pending has none in flight, so a step changes the words of its cache in its own
evaluation only. -/
theorem data_step {s t : State} {c : CoreId} (hinv : s.Inv) (h : step s = .next t)
    (hp : (s.core c).mbox.pending = false) :
    (t.core c).cache.data = (evalCore (s.core c).clearSignals).cache.data := by
  have hc : s.bus.busy = true → s.bus.cmd = .read ∨ s.bus.cmd = .readExclusive → c ≠ s.bus.origid := by
    rintro hb hk rfl
    obtain ⟨hpend, -⟩ := hinv.fill hb hk
    rw [hp] at hpend
    cases hpend
  obtain ⟨u, hu, rfl⟩ := step_next h
  rw [State.core_endCycle, clockEdge_cache, data_busStep hu hc, evaluated_core]

/-! ## The store in the memory stage (R191, R223) -/

/-- R223 (1): the words of a cache after a write in place. -/
theorem word_writeInPlace (ca : Cache) (a : Addr) (v : Word) (i : LineIndex) (o : Offset) :
    (ca.writeInPlace a v).word i o = if i = addrIndex a ∧ o = addrOffset a then v else ca.word i o := by
  rw [Cache.writeInPlace, Cache.setState, Cache.word_setLine]
  split
  · rename_i h
    obtain ⟨rfl, rfl⟩ := h
    exact Cache.word_setWord_same ..
  · exact Cache.word_setWord_other _ _ (by assumption)

/-- The memory stage of a store in the `MEM` slot. -/
theorem evalStageCore_memory_sw {k : Core} {rd rs rt : RegNum} {imm : Word} (ha : k.slotMEM.active = true)
    (hd : decode k.slotMEM.raw = .ok (.sw rd rs rt imm)) :
    evalStageCore .memory k = storeStage (opval k rd imm) k := by
  simp only [evalStageCore, stageWord, ha, if_true, hd]
  rfl

/-- R191: a store to a line its core owns writes the line in place and does not stall. -/
theorem storeStage_owned {k : Core} (v : Word) (hp : k.mbox.pending = false)
    (ho : k.cache.ownsForWrite (addrOfWord k.slotMEM.result) = true) :
    (storeStage v k).cache = k.cache.writeInPlace (addrOfWord k.slotMEM.result) v ∧
      (storeStage v k).slotMEM = k.slotMEM := by
  rcases storeStage_cases v k with ⟨hp', -⟩ | ⟨-, -, e⟩ | ⟨-, ho', -⟩
  · exact absurd (hp'.symm.trans hp) (by decide)
  · rw [e]
    cases k.mbox.done <;> exact ⟨rfl, rfl⟩
  · exact absurd (ho.symm.trans ho') (by decide)

/-- The cache and the `MEM` slot of an evaluated core that holds a store to a line it owns. -/
theorem evalCore_store_owned {k : Core} {rd rs rt : RegNum} {imm : Word} (hw : k.wrPending = false)
    (hi : k.slotID.stall = false) (hs : k.sig = Signals.none) (ha : k.slotMEM.active = true)
    (hd : decode k.slotMEM.raw = .ok (.sw rd rs rt imm)) (hp : k.mbox.pending = false)
    (ho : k.cache.ownsForWrite (addrOfWord k.slotMEM.result) = true) :
    (evalCore k).cache = k.cache.writeInPlace (addrOfWord k.slotMEM.result) (opval k rd imm) ∧
      (evalCore k).slotMEM = k.slotMEM := by
  have hacc := (evalCore_evaluated hw hi hs).access
  rw [evalStageCore_memory_sw ha hd] at hacc
  obtain ⟨hcache, hslot⟩ := storeStage_owned (opval k rd imm) hp ho
  exact ⟨hacc.cache.trans hcache, hacc.slotMEM.trans hslot⟩

/-- R201: an instruction moves with its new result and no stall flag. -/
theorem advance_active {S : Slot} (h : S.active = true) (v : Word) :
    S.advance v = { S with result := v, stall := false } := by
  simp [Slot.advance, h]

/-- R201 to R203: an instruction whose memory stage does not stall is in writeback after the edge. -/
theorem clockEdge_slotWB {k : Core} (hm : k.slotMEM.stall = false) :
    (clockEdge k).slotWB = k.slotMEM.advance k.sig.memResult := by
  rcases edgeSlots_cases (edgeCounters k) with ⟨h, -⟩ | ⟨-, -, h⟩ | ⟨-, -, h⟩
  · exact absurd (h.symm.trans hm) (by decide)
  all_goals
    rw [show (clockEdge k).slotWB = (edgeSlots (edgeCounters k)).slotWB from rfl, h]
    rfl

/-- Settles O59: the store writes its line in place and leaves the memory stage; no transfer of the same step reaches its
core's cache, because none is in flight for a core with no request pending. -/
theorem storeHitIsPerformedInItsCycle : Obligations.StoreHitIsPerformedInItsCycle := by
  intro s t c rd rs rt imm hinv h ha hd hp ho
  obtain ⟨-, hw, -, -, -⟩ := (hinv.cores c).quiet
  obtain ⟨hcache, hslot⟩ := evalCore_store_owned (k := (s.core c).clearSignals) hw rfl rfl ha hd hp ho
  have hstall : (evalCore (s.core c).clearSignals).slotMEM.stall = false := by rw [hslot]; rfl
  obtain ⟨ca, mb, ht⟩ := step_core h c
  have hWB : (t.core c).slotWB = { (s.core c).slotMEM with
      result := (evalCore (s.core c).clearSignals).sig.memResult, stall := false } :=
    calc (t.core c).slotWB
        = (evalCore (s.core c).clearSignals).slotMEM.advance _ := by rw [ht]; exact clockEdge_slotWB hstall
      _ = _ := by rw [hslot]; exact advance_active ha _
  refine ⟨by rw [hWB], by rw [hWB]; exact ha, fun i o => ?_⟩
  calc (t.core c).cache.word i o
      = (evalCore (s.core c).clearSignals).cache.word i o := by
        rw [Cache.word, data_step hinv h hp, Cache.word]
    _ = _ := by rw [hcache]; exact word_writeInPlace ..

end Sys2Proof.Proofs
end

section
/-!
The statements about the encoding (30_encoding.md): `decode` and `encode` undo each other, and the 12-bit immediate is
sign-extended.
-/

namespace Sys2Proof.Proofs

open Sys2Proof Sys2Proof.Machine

/-! ## Sign extension of the immediate field (R92) -/

/-- The bits of the extended immediate: those of the field, then copies of its bit 11. -/
theorem getLsbD_sext12 (v : BitVec 12) {j : Nat} (h : j < 32) :
    (sext12 v).getLsbD j = if j < 12 then v.getLsbD j else v.getLsbD 11 := by
  rw [sext12, BitVec.getLsbD_signExtend, BitVec.msb_eq_getLsbD_last, decide_eq_true h, Bool.true_and]
  rfl

theorem toInt_sext12 (v : BitVec 12) : (sext12 v).toInt = v.toInt := BitVec.toInt_signExtend_of_le (by decide)

theorem immInRange_sext12 (v : BitVec 12) : immInRange (sext12 v) = true := by
  have hlo : -2048 ≤ v.toInt := v.le_toInt
  have hhi : v.toInt < 2048 := v.toInt_lt
  rw [immInRange_value, toInt_sext12]
  omega

/-- The immediate field holds a sign-extended value back. -/
theorem extractLsb'_sext12 (v : BitVec 12) : (sext12 v).extractLsb' 0 12 = v := by
  apply BitVec.eq_of_getLsbD_eq
  intro j hj
  have h32 : j < 32 := by omega
  rw [BitVec.getLsbD_extractLsb', Nat.zero_add, getLsbD_sext12 v h32]
  simp [hj]

/-- The low 12 bits, read as a signed number, are the word's value reduced to 12 bits. -/
theorem toInt_immField (v : Word) : (v.extractLsb' 0 12).toInt = v.toInt.bmod (2 ^ 12) := by
  rw [← BitVec.setWidth_eq_extractLsb' (by decide), ← BitVec.signExtend_eq_setWidth_of_le _ (by decide),
    BitVec.toInt_signExtend_eq_toInt_bmod_of_le _ (by decide)]

/-- A word in the range of the immediate is determined by its low 12 bits. -/
theorem sext12_immField {v : Word} (h : immInRange v = true) : sext12 (v.extractLsb' 0 12) = v := by
  obtain ⟨hlo, hhi⟩ := (immInRange_value v).mp h
  apply BitVec.eq_of_toInt_eq
  rw [toInt_sext12, toInt_immField]
  exact Int.bmod_eq_of_le_mul_two (by omega) (by omega)

/-! ## Fields and words (R91) -/

/-- Each field of the single format is read back from where it was placed. -/
theorem extractLsb'_fields (op : BitVec 8) (rd rs rt : BitVec 4) (imm : BitVec 12) :
    (op ++ rd ++ rs ++ rt ++ imm).extractLsb' 24 8 = op ∧ (op ++ rd ++ rs ++ rt ++ imm).extractLsb' 20 4 = rd ∧
      (op ++ rd ++ rs ++ rt ++ imm).extractLsb' 16 4 = rs ∧ (op ++ rd ++ rs ++ rt ++ imm).extractLsb' 12 4 = rt ∧
      (op ++ rd ++ rs ++ rt ++ imm).extractLsb' 0 12 = imm := by
  -- the widths stay sums, as the rules for `++` need them
  simp (disch := decide) only [BitVec.extractLsb'_append_eq_of_le, BitVec.extractLsb'_append_eq_of_add_le,
    BitVec.extractLsb'_eq_self, Nat.reduceSub, and_self, -Nat.reduceAdd]

/-- The record of a word made of five fields has these fields. -/
theorem decodeRecord_encodeFields (op : BitVec 8) (rd rs rt : RegNum) {imm : Word} (h : immInRange imm = true) :
    decodeRecord (encodeFields op rd rs rt imm) = ⟨encodeFields op rd rs rt imm, op, rd, rs, rt, imm⟩ := by
  obtain ⟨hop, hrd, hrs, hrt, himm⟩ := extractLsb'_fields op (.ofFin rd) (.ofFin rs) (.ofFin rt) (imm.extractLsb' 0 12)
  rw [← encodeFields_value] at hop hrd hrs hrt himm
  simp only [decodeRecord, hop, hrd, hrs, hrt, himm, sext12_immField h]

/-- A word is made of the fields of its record: the five fields cover all 32 bits. -/
theorem encodeFields_decodeRecord (w : Word) :
    encodeFields (decodeRecord w).op (decodeRecord w).rd (decodeRecord w).rs (decodeRecord w).rt (decodeRecord w).imm = w :=
  calc encodeFields _ _ _ _ (sext12 (w.extractLsb' 0 12))
      = w.extractLsb' 24 8 ++ w.extractLsb' 20 4 ++ w.extractLsb' 16 4 ++ w.extractLsb' 12 4 ++ w.extractLsb' 0 12 := by
        rw [encodeFields_value, extractLsb'_sext12]; rfl
    _ = w.extractLsb' 0 32 := by
        iterate 4 rw [BitVec.extractLsb'_append_extractLsb'_eq_extractLsb' (by decide)]
    _ = w := BitVec.extractLsb'_eq_self

/-! ## The opcode map (R93) and the round trips -/

/-- The opcode of an instruction selects the instruction. -/
theorem instrOfOp_op (i : Instr) : instrOfOp i.op.toNat i.rd i.rs i.rt i.imm = some i := by
  cases i <;> rfl

/-- Settles O1: the fields of the encoded word are the instruction's own, and its opcode selects it. -/
theorem decodeOfEncode : Obligations.DecodeOfEncode := by
  intro i hwf
  have hrec := decodeRecord_encodeFields i.op i.rd i.rs i.rt hwf
  simp only [decode, encode, hrec, instrOfOp_op]

/-- Settles O2: the decoded instruction has the fields of the word's record, which make up the word; its immediate is a
sign-extended one. -/
theorem encodeOfDecode : Obligations.EncodeOfDecode := by
  intro w i h
  obtain ⟨hop, hrd, hrs, hrt, himm⟩ := decode_ok h
  constructor
  · rw [encode, hop, hrd, hrs, hrt, himm, encodeFields_decodeRecord]
  · rw [Instr.wellFormed, himm]
    exact immInRange_sext12 _

/-- Settles O4: the record's immediate is the sign extension of the word's low 12 bits. -/
theorem immediateIsSignExtended : Obligations.ImmediateIsSignExtended := by
  intro w
  have himm : (decodeRecord w).imm = sext12 (w.extractLsb' 0 12) := rfl
  rw [himm]
  refine ⟨fun j hj => ?_, fun j h12 h32 => ?_, (immInRange_value _).mp (immInRange_sext12 _)⟩
  · have h32 : j < 32 := by omega
    simp [getLsbD_sext12 _ h32, hj]
  · simp [getLsbD_sext12 _ h32, h12.not_gt]

/-- Settles O5, by evaluating the decoder on each word. -/
theorem sampleWordsDecode : Obligations.SampleWordsDecode := ⟨rfl, rfl, rfl, rfl, rfl, rfl, rfl⟩

end Sys2Proof.Proofs
end

section
/-!
The statements about the arithmetic and logic instructions (40_alu.md): the result each drives in execute, and that the
result of an instruction in decode, with nothing behind it, is in the register file four cycles later.
-/

namespace Sys2Proof.Proofs

open Sys2Proof Sys2Proof.Machine

/-! ## The results in execute (R111 to R119) -/

theorem aluAdd_eq (a b : Word) : aluAdd a b = BitVec.ofNat 32 ((a.toNat + b.toNat) % 2 ^ 32) := by
  apply BitVec.eq_of_toNat_eq
  rw [aluAdd, BitVec.toNat_add, BitVec.toNat_ofNat, Nat.mod_mod]

theorem aluSub_eq (a b : Word) : aluSub a b = BitVec.ofInt 32 ((a.toInt - b.toInt) % 2 ^ 32) := by
  apply BitVec.eq_of_toInt_eq
  rw [aluSub, BitVec.toInt_sub, BitVec.toInt_ofInt]
  exact (Int.emod_bmod _ _).symm

theorem aluMul_eq (a b : Word) : aluMul a b = BitVec.ofInt 32 ((a.toInt * b.toInt) % 2 ^ 32) := by
  apply BitVec.eq_of_toInt_eq
  rw [aluMul, BitVec.toInt_mul, BitVec.toInt_ofInt]
  exact (Int.emod_bmod _ _).symm

/-- R117: the low 5 bits of the second operand are its value modulo 32 (decision D19). -/
theorem shamt_eq (b : Word) : shamt b = b.toNat % 32 := by
  rw [shamt, BitVec.extractLsb'_toNat, Nat.shiftRight_zero]

theorem aluSll_eq (a b : Word) : aluSll a b = BitVec.ofNat 32 (a.toNat * 2 ^ (b.toNat % 32) % 2 ^ 32) := by
  apply BitVec.eq_of_toNat_eq
  rw [aluSll, shamt_eq, BitVec.toNat_shiftLeft, Nat.shiftLeft_eq, BitVec.toNat_ofNat, Nat.mod_mod]

theorem toInt_aluSra (a b : Word) : (aluSra a b).toInt = Int.fdiv a.toInt (2 ^ (b.toNat % 32)) := by
  have hpos : (0 : Int) ≤ 2 ^ (b.toNat % 32) := by positivity
  rw [aluSra, shamt_eq, BitVec.toInt_sshiftRight, Int.shiftRight_eq_div_pow, Int.fdiv_eq_ediv_of_nonneg _ hpos]
  norm_cast

theorem toNat_aluSrl (a b : Word) : (aluSrl a b).toNat = a.toNat / 2 ^ (b.toNat % 32) := by
  rw [aluSrl, shamt_eq, BitVec.toNat_ushiftRight, Nat.shiftRight_eq_div_pow]

/-- R110, R186: in execute an arithmetic or logic instruction drives its `alu` function of the two operands. -/
theorem gives_executeAlu {i : Instr} {s : State} (hs : s.focus.stage = .execute) {alu : Word → Word → Word}
    {rd rs rt : RegNum} {imm : Word} (hi : instrStages i = aluStages alu rd rs rt imm) {v : Word}
    (hv : alu (opval s.focusCore rs imm) (opval s.focusCore rt imm) = v) : Gives i s (s.focusCore.setExResult v) := by
  rw [gives_iff, hs, hi, ← hv]
  rfl

/-- Settles O10: word addition, subtraction and multiplication are those of integers, reduced modulo 2^32. -/
theorem addSubMulResults : Obligations.AddSubMulResults := fun _ _ _ _ _ hs =>
  ⟨gives_executeAlu hs rfl (aluAdd_eq ..), gives_executeAlu hs rfl (aluSub_eq ..), gives_executeAlu hs rfl (aluMul_eq ..)⟩

/-- Settles O11: each bit of the result is that operation on the bits of the operands. -/
theorem bitwiseResults : Obligations.BitwiseResults := fun _ _ _ _ _ hs =>
  ⟨⟨_, gives_executeAlu hs rfl rfl, fun _ _ => BitVec.getLsbD_and⟩,
    ⟨_, gives_executeAlu hs rfl rfl, fun _ _ => BitVec.getLsbD_or⟩,
    ⟨_, gives_executeAlu hs rfl rfl, fun _ _ => BitVec.getLsbD_xor⟩⟩

/-- Settles O12: a shift by `n` multiplies by `2^n`, or divides by it with the quotient rounded down. -/
theorem shiftResults : Obligations.ShiftResults := fun _ _ _ _ _ hs =>
  ⟨gives_executeAlu hs rfl (aluSll_eq ..), ⟨_, gives_executeAlu hs rfl rfl, toInt_aluSra ..⟩,
    ⟨_, gives_executeAlu hs rfl rfl, toNat_aluSrl ..⟩⟩

/-! ## No step stops while every request and every transaction carries a command (R242, R47) -/

/-- A pending request is a Read or a ReadExclusive. -/
def HasCommand (m : Mailbox) : Prop := m.pending = true → m.cmd = .read ∨ m.cmd = .readExclusive

/-- Every pending request and the transaction in flight carry a command: what the controller needs to have a rule. -/
structure Commanded (s : State) : Prop where
  mbox (c : CoreId) : HasCommand (s.core c).mbox
  bus : s.bus.busy = true → s.bus.cmd ≠ .none

/-- R47, R245: the machine's invariant says so. -/
theorem commanded_of_inv {s : State} (h : s.Inv) : Commanded s where
  mbox c hp := by
    obtain ⟨-, -, hreq, -⟩ := (h.cores c).mailbox
    obtain ⟨-, -, ⟨-, hcmd⟩ | ⟨-, hcmd⟩⟩ := hreq (.inl hp)
    · exact .inl hcmd
    · exact .inr hcmd
  bus := h.bus.1

/-- R190, R191, R241: a stage issues no request but a Read or a ReadExclusive. -/
theorem hasCommand_evalStageCore (st : Stage) {k : Core} (h : HasCommand k.mbox) :
    HasCommand (evalStageCore st k).mbox := by
  cases st with
  | writeback => rw [evalStageCore_writeback]; exact h
  | memory =>
    rw [evalStageCore_memory]
    split
    · rcases loadStage_cases k with ⟨-, e⟩ | ⟨-, -, e⟩ | ⟨-, -, e⟩ <;> rw [e]
      · exact h
      · cases k.mbox.done <;> exact h
      · exact fun _ => .inl rfl
    · split
      · rcases storeStage_cases (opval k (decodeRecord k.slotMEM.raw).rd (decodeRecord k.slotMEM.raw).imm) k with
          ⟨-, e⟩ | ⟨-, -, e⟩ | ⟨-, -, e⟩ <;> rw [e]
        · exact h
        · cases k.mbox.done <;> exact h
        · cases k.mbox.done <;> exact fun _ => .inr rfl
      · exact h
  | execute => obtain ⟨v, e⟩ := evalStageCore_execute k; rw [e]; exact h
  | decode =>
    rcases evalStageCore_decode k with ⟨-, -, e⟩ | ⟨-, ⟨-, -, -, _, _, e⟩ | ⟨-, -, e⟩ | ⟨-, e⟩⟩ <;> rw [e] <;> exact h
  | fetch =>
    rw [evalStageCore_fetch]
    rcases fetchStage_cases k with ⟨-, e⟩ | ⟨-, e⟩ <;> rw [e] <;> exact h

theorem commanded_evaluated {s : State} (h : Commanded s) : Commanded (evaluated s) where
  mbox c := by
    rw [evaluated_core]
    exact hasCommand_evalStageCore .fetch <| hasCommand_evalStageCore .decode <|
      hasCommand_evalStageCore .execute <| hasCommand_evalStageCore .memory <|
        hasCommand_evalStageCore .writeback (h.mbox c)
  bus := h.bus

theorem commanded_onBus {s : State} (h : Commanded s) {f : Bus → Bus}
    (hb : (f s.bus).busy = true → (f s.bus).cmd ≠ .none) : Commanded (s.onBus f) := ⟨h.mbox, hb⟩

theorem commanded_onCore {s : State} (h : Commanded s) {c : CoreId} {f : Core → Core}
    (hf : HasCommand (f (s.core c)).mbox) : Commanded (s.onCore c f) where
  mbox d := by
    rw [State.core_onCore]
    split
    · exact hf
    · exact h.mbox d
  bus := h.bus

theorem commanded_snoopScan {r : CoreId} {k : BusCmd} (hk : k ≠ .none) (a : Addr) (os : List CoreId) {s : State}
    (h : Commanded s) : Commanded (snoopScan r k a os s) := by
  induction os generalizing s with
  | nil => exact commanded_onBus h fun _ => hk
  | cons o os ih =>
    have hshared := commanded_onBus (f := fun b => { b with shared := true }) h h.bus
    simp only [snoopScan]
    split
    · exact ih h
    · split
      · split
        · exact commanded_onBus hshared fun _ => nofun
        · exact ih (commanded_onCore hshared (h.mbox o))
      · exact ih h

theorem commanded_serve {s : State} (h : Commanded s) (r : CoreId) {k : BusCmd} (hk : k ≠ .none) (a : Addr) :
    Commanded (serve s r k a) := by
  simp only [serve]
  split
  · exact commanded_onBus h fun _ => nofun
  · exact commanded_snoopScan hk a allCores h

theorem commanded_fillWord {s : State} (h : Commanded s) : Commanded (fillWord s) := by
  rw [fillWord]
  exact commanded_onBus (commanded_onCore h (h.mbox s.bus.origid)) h.bus

theorem hasCommand_complete (m : Mailbox) : HasCommand m.complete := nofun

theorem commanded_finalizeFill {s : State} (h : Commanded s) (m : Mesi) : Commanded (finalizeFill s m) := by
  rw [finalizeFill]
  exact commanded_onBus (commanded_onCore h (hasCommand_complete (s.core s.bus.origid).mbox)) nofun

theorem commanded_flushWord {s : State} (h : Commanded s) : Commanded (flushWord s) := ⟨h.mbox, h.bus⟩

theorem commanded_finalizeFlush {s : State} (h : Commanded s) : Commanded (finalizeFlush s) :=
  commanded_onBus (commanded_onCore h (h.mbox s.bus.origid)) nofun

theorem commanded_busStep {s t : State} (h : Commanded s) (hs : busStep s = .next t) : Commanded t := by
  rcases busStep_cases hs with ⟨hb, hs⟩ | ⟨hb, -, rfl⟩ | ⟨-, -, hs⟩
  · have hidle : Commanded (s.onBus Bus.resetWires) := commanded_onBus h fun hb' => absurd (hb.symm.trans hb') nofun
    rcases idleStep_cases hs with ⟨-, rfl⟩ | ⟨r, -, hcmd, rfl⟩
    · exact hidle
    · exact commanded_serve hidle r (by rcases hcmd with e | e <;> rw [e] <;> nofun) _
  · exact commanded_onBus h h.bus
  · rcases transferStep_cases hs with ⟨-, -, rfl⟩ | ⟨-, -, rfl⟩ | ⟨-, -, rfl⟩ | ⟨-, -, rfl⟩ | ⟨-, -, rfl⟩
    · exact commanded_fillWord h
    · exact commanded_finalizeFill (commanded_fillWord h) _
    · exact commanded_finalizeFill (commanded_fillWord h) _
    · exact commanded_flushWord h
    · exact commanded_finalizeFlush (commanded_flushWord h)

/-- A selected mailbox has a request pending (R242, R258). -/
theorem pending_of_arbitrate {s : State} {r : CoreId} (h : arbitrate s = some r) : (s.core r).mbox.pending = true := by
  have he : (s.core r).mbox.eligible = true := List.find?_some (p := fun r => (s.core r).mbox.eligible) h
  exact (Bool.and_eq_true_iff.mp he).1

theorem exists_busStep {s : State} (h : Commanded s) : ∃ t, busStep s = .next t := by
  simp only [busStep]
  split
  · rename_i hb
    split
    · exact ⟨_, rfl⟩
    · cases hc : s.bus.cmd with
      | none => exact absurd hc (h.bus hb)
      | read | readExclusive | flush => simp only [transferStep, hc]; exact ⟨_, rfl⟩
  · cases ha : arbitrate (s.onBus Bus.resetWires) with
    | none => simp only [idleStep, ha]; exact ⟨_, rfl⟩
    | some r =>
      simp only [idleStep, ha, State.onBus_core]
      rcases h.mbox r (pending_of_arbitrate ha) with hc | hc <;> simp only [hc] <;> exact ⟨_, rfl⟩

/-- A step answers a next state, from which again none stops. -/
theorem exists_step {s : State} (h : Commanded s) : ∃ t, step s = .next t ∧ Commanded t := by
  obtain ⟨u, hu⟩ := exists_busStep (commanded_evaluated h)
  have hc := commanded_busStep (commanded_evaluated h) hu
  refine ⟨endCycle u, by rw [step_eq, hu]; rfl, fun c => ?_, hc.bus⟩
  obtain ⟨_, _, _, _, _, e⟩ := edgeSlots_frame (edgeCounters (u.core c))
  have hm : (clockEdge (u.core c)).mbox = (u.core c).mbox := by simp [clockEdge, e]
  rw [State.core_endCycle, hm]
  exact hc.mbox c

/-- A run goes on as far as its first step's next state does. -/
theorem run_succ {s t : State} (h : step s = .next t) (n : Nat) :
    Host.Core.run Sys2Proof.core (n + 1) s = Host.Core.run Sys2Proof.core n t := by
  have hs : Sys2Proof.core.step s = .next t := h
  simp only [Host.Core.run, hs]

/-! ## What a step makes of the slots and general registers of one core (R201 to R204) -/

section Step

variable {s t : State} {c : CoreId}

theorem step_wrPending (h : step s = .next t) (c : CoreId) : (t.core c).wrPending = false := by
  obtain ⟨ca, mb, ht⟩ := step_core h c
  rw [ht]
  rfl

/-- A step is the clock edge on an evaluated core, but for the cache and the mailbox (R170, R300). -/
theorem step_evaluated (h : step s = .next t) (hw : (s.core c).wrPending = false) :
    ∃ e ca mb, (s.core c).clearSignals.Evaluated e ∧ t.core c = clockEdge { e with cache := ca, mbox := mb } := by
  obtain ⟨ca, mb, ht⟩ := step_core h c
  exact ⟨_, ca, mb, evalCore_evaluated hw rfl rfl, ht⟩

/-- R196, R204: a general register after a step is the result of the writeback slot, if the slot's instruction writes it,
or what it was. -/
theorem step_general (h : step s = .next t) (hw : (s.core c).wrPending = false) {n : RegNum} (hn : 2 ≤ n.val) :
    (t.core c).x[n] = if (s.core c).slotWB.dest = some n then (s.core c).slotWB.result else (s.core c).x[n] := by
  obtain ⟨e, ca, mb, hev, ht⟩ := step_evaluated h hw
  have hx : (t.core c).x[n] = if e.wrPending = true ∧ e.wrDest = n then e.wrValue else e.x[n] :=
    (congrArg (fun k : Core => k.x[n]) ht).trans (clockEdge_general _ hn)
  rw [hx]
  by_cases hd : (s.core c).slotWB.dest = some n
  · have hp : e.wrPending = true := by rw [hev.wrPending]; exact Option.isSome_of_eq_some hd
    rw [if_pos ⟨hp, hev.wrDest n hd⟩, if_pos hd]
    exact hev.wrValue n hd
  · have hkept : e.x = (s.core c).x := hev.kept.x
    rw [if_neg fun hp => hd (evaluated_write hev hp.1 hp.2).1, if_neg hd, hkept]

/-- A step writes no general register while writeback holds a bubble. -/
theorem step_general_bubble (h : step s = .next t) (hw : (s.core c).wrPending = false)
    (hWB : (s.core c).slotWB.active = false) {n : RegNum} (hn : 2 ≤ n.val) : (t.core c).x[n] = (s.core c).x[n] := by
  have hd : (s.core c).slotWB.dest ≠ some n := by simp [Slot.dest, hWB]
  rw [step_general h hw hn, if_neg hd]

theorem memoryPasses_of_inactive {k : Core} (h : k.slotMEM.active = false) : k.MemoryPasses :=
  fun ha => absurd (h.symm.trans ha) nofun

/-- Neither an arithmetic or logic instruction nor a `jal` is a load or a store. -/
theorem not_loadStore_of_producer {o : BitVec 8} (h : o ≤ 8 ∨ o = 15) : o ≠ 16 ∧ o ≠ 17 := by
  bv_omega

/-- R193: the memory stage passes what is no load or store. -/
theorem evaluated_passes {k e : Core} (hev : k.Evaluated e) (hp : k.MemoryPasses) :
    e.slotMEM = k.slotMEM ∧ e.sig.memResult = k.slotMEM.result := by
  have hacc := hev.access
  have hload : ¬ (k.slotMEM.active = true ∧ (decodeRecord k.slotMEM.raw).op = 16) := fun h => (hp h.1).1 h.2
  have hstore : ¬ (k.slotMEM.active = true ∧ (decodeRecord k.slotMEM.raw).op = 17) := fun h => (hp h.1).2 h.2
  rw [evalStageCore_memory, if_neg hload, if_neg hstore] at hacc
  exact ⟨hacc.slotMEM, hacc.memResult⟩

/-- R180: with the stages behind decode empty there is no hazard. -/
theorem hazard_drained {k : Core} (h : k.DrainedBehindDecode) (srcs : List RegNum) : hazard k srcs = false := by
  obtain ⟨hEX, hMEM, hWB⟩ := h
  simp [hazard, Slot.dest, hEX, hMEM, hWB]

/-- R201 to R203: an instruction in execute moves on with its result when the memory stage does not stall. -/
theorem clockEdge_slotMEM {k : Core} (hm : k.slotMEM.stall = false) :
    (clockEdge k).slotMEM = k.slotEX.advance k.sig.exResult := by
  have hadv : (clockEdge k).slotMEM = { k.slotEX.advance k.sig.exResult with stall := false } := by
    rcases edgeSlots_cases (edgeCounters k) with ⟨h, -⟩ | ⟨-, -, h⟩ | ⟨-, -, h⟩
    · exact absurd (h.symm.trans hm) nofun
    all_goals
      rw [show (clockEdge k).slotMEM = { (edgeSlots (edgeCounters k)).slotMEM with stall := false } from rfl, h]
      rfl
  rw [hadv, Slot.advance]
  split <;> rfl

/-- R203: an instruction in decode moves on when neither stage stalls. -/
theorem clockEdge_slotEX {k : Core} (hm : k.slotMEM.stall = false) (hd : k.slotID.stall = false) :
    (clockEdge k).slotEX = k.slotID.advance 0 := by
  rw [show (clockEdge k).slotEX = (edgeSlots (edgeCounters k)).slotEX from rfl,
    edgeSlots_unstalled (k := edgeCounters k) hm hd]
  rfl

/-- R201: how a slot moves does not depend on its stall flag. -/
theorem advance_congr {S S' : Slot} (ha : S'.active = S.active) (hp : S'.pc = S.pc) (hr : S'.raw = S.raw) (v : Word) :
    S'.advance v = S.advance v := by
  simp only [Slot.advance, ha, hp, hr]

theorem step_slotWB (h : step s = .next t) (hw : (s.core c).wrPending = false) (hp : (s.core c).MemoryPasses) :
    (t.core c).slotWB = (s.core c).slotMEM.advance (s.core c).slotMEM.result := by
  obtain ⟨e, ca, mb, hev, ht⟩ := step_evaluated h hw
  obtain ⟨hslot, hres⟩ := evaluated_passes hev hp
  have hstall : e.slotMEM.stall = false := by rw [hslot]; rfl
  calc (t.core c).slotWB = e.slotMEM.advance e.sig.memResult := by rw [ht]; exact clockEdge_slotWB hstall
    _ = _ := by rw [hslot, hres]; rfl

theorem step_slotMEM (h : step s = .next t) (hw : (s.core c).wrPending = false) (hp : (s.core c).MemoryPasses) :
    (t.core c).slotMEM = (s.core c).slotEX.advance (evalCore (s.core c).clearSignals).sig.exResult := by
  obtain ⟨ca, mb, ht⟩ := step_core h c
  have hev : (s.core c).clearSignals.Evaluated (evalCore (s.core c).clearSignals) := evalCore_evaluated hw rfl rfl
  obtain ⟨hslot, -⟩ := evaluated_passes hev hp
  have hstall : (evalCore (s.core c).clearSignals).slotMEM.stall = false := by rw [hslot]; rfl
  have hex : (evalCore (s.core c).clearSignals).slotEX = (s.core c).slotEX := hev.kept.ex
  rw [ht, ← hex]
  exact clockEdge_slotMEM hstall

theorem step_slotEX (h : step s = .next t) (hw : (s.core c).wrPending = false) (hp : (s.core c).MemoryPasses)
    (hz : hazard (s.core c) (recordSrcs (decodeRecord (s.core c).slotID.raw)) = false) :
    (t.core c).slotEX = (s.core c).slotID.advance 0 := by
  obtain ⟨e, ca, mb, hev, ht⟩ := step_evaluated h hw
  obtain ⟨hslot, -⟩ := evaluated_passes hev hp
  have hm : e.slotMEM.stall = false := by rw [hslot]; rfl
  have hd : e.slotID.stall = false :=
    Bool.eq_false_iff.mpr fun hd => absurd (hz.symm.trans (hev.decStall.mp hd).2) nofun
  calc (t.core c).slotEX = e.slotID.advance 0 := by rw [ht]; exact clockEdge_slotEX hm hd
    _ = _ := advance_congr hev.kept.idActive hev.kept.idPc hev.kept.idRaw 0

end Step

/-! ## The value an instruction drives in execute -/

/-- Decode and fetch leave `ex_result` as execute drove it. -/
theorem exResult_evalStageCore_decode (k : Core) : (evalStageCore .decode k).sig.exResult = k.sig.exResult := by
  rcases evalStageCore_decode k with ⟨-, -, e⟩ | ⟨-, ⟨-, -, -, _, _, e⟩ | ⟨-, -, e⟩ | ⟨-, e⟩⟩ <;> rw [e] <;> rfl

theorem exResult_evalStageCore_fetch (k : Core) : (evalStageCore .fetch k).sig.exResult = k.sig.exResult := by
  rw [evalStageCore_fetch]
  rcases fetchStage_cases k with ⟨-, e⟩ | ⟨-, e⟩ <;> rw [e]

/-- R170, R186: the evaluation of a core drives the result of the instruction in execute, on the start-of-cycle state. -/
theorem evalCore_exResult {k : Core} {i : Instr} (ha : k.slotEX.active = true) (hd : decode k.slotEX.raw = .ok i) :
    ∃ m, k.Kept m ∧ (evalCore k).sig.exResult = (instrStages i .execute m).sig.exResult := by
  have hk := (kept_evalStageCore .writeback k).trans (kept_evalStageCore .memory _)
  refine ⟨_, hk, ?_⟩
  rw [evalCore, exResult_evalStageCore_fetch, exResult_evalStageCore_decode, evalStageCore, hk.stageWord]
  simp only [stageWord, ha, if_true, hd]

theorem getElem_writeReg (x : Vector Word Config.regCount) (d : RegNum) (v : Word) (n : RegNum) :
    (writeReg x d v)[n] = if writable d = some n then v else x[n] := by
  rw [writeReg]
  cases writable d with
  | none => rfl
  | some d =>
    by_cases h : d = n
    · simp [h]
    · have hv : d.val ≠ n.val := fun e => h (Fin.ext e)
      simp [h, hv]

/-- R24: register files with the same general registers give the same operands. -/
theorem sameOperands_of_general {x y : Vector Word Config.regCount} (h : ∀ n : RegNum, 2 ≤ n.val → y[n] = x[n]) :
    SameOperands x y := by
  intro n imm
  obtain rfl | rfl | hn := regNum_cases n
  · rfl
  · rfl
  · rw [regOperand_general _ imm hn, regOperand_general _ imm hn, h n hn]

/-- R110, R137, R139: the instruction-level view writes to the destination of an arithmetic or logic instruction or a
`jal` the value its execute stage drives on the same operands and `pc`, and to no other register. -/
theorem seqExec_getElem {w : Word} {i : Instr} (hd : decode w = .ok i) (hop : i.op ≤ 8 ∨ i.op = 15) {q : SeqState}
    {m : Core} (hx : SameOperands q.x m.x) (hpc : m.slotEX.pc = q.pc) (n : RegNum) :
    (seqExec i q).x[n] =
      if recordDest (decodeRecord w) = some n then (instrStages i .execute m).sig.exResult else q.x[n] := by
  obtain ⟨ho, hr, -⟩ := decode_ok hd
  have halu : ∀ (alu : Word → Word → Word) (rd rs rt : RegNum) (imm : Word),
      (seqAlu alu rd rs rt imm q).x[n] =
        if writable rd = some n then (aluStages alu rd rs rt imm .execute m).sig.exResult else q.x[n] := by
    intro alu rd rs rt imm
    have hres : (aluStages alu rd rs rt imm .execute m).sig.exResult =
        alu (regOperand q.x rs imm) (regOperand q.x rt imm) := by rw [← hx rs imm, ← hx rt imm]; rfl
    rw [hres]
    exact getElem_writeReg ..
  rw [recordDest, ← ho, ← hr]
  cases i with
  | add | sub | and | or | xor | mul | sll | sra | srl => exact halu ..
  | jal =>
    have hres : (executeLink m).sig.exResult = linkValue q.pc := by rw [← hpc]; rfl
    show _ = if writable 15 = some n then (executeLink m).sig.exResult else _
    rw [hres]
    exact getElem_writeReg ..
  | beq | bne | blt | bgt | ble | bge | lw | sw | halt => exact absurd hop (by simp [Instr.op])

/-! ## From decode to the register file: one stage per cycle (R208) -/

section Flow

variable {s t : State} {c : CoreId}

/-- An instruction in decode with nothing behind it is in execute next, still with nothing behind it. -/
theorem step_decode_drained (h : step s = .next t) (hw : (s.core c).wrPending = false)
    (ha : (s.core c).slotID.active = true) (hd : (s.core c).DrainedBehindDecode) :
    (t.core c).slotEX = { (s.core c).slotID with result := 0, stall := false } ∧
      (t.core c).slotMEM = Slot.bubble ∧ (t.core c).slotWB = Slot.bubble := by
  have ⟨hEX, hMEM, _⟩ := hd
  have hp := memoryPasses_of_inactive hMEM
  rw [step_slotEX h hw hp (hazard_drained hd _), step_slotMEM h hw hp, step_slotWB h hw hp]
  exact ⟨advance_active ha _, advance_inactive hEX _, advance_inactive hMEM _⟩

/-- An instruction in execute with a bubble in the memory stage is in the memory stage next, with the result it drives
on the core's registers and its own `pc`. -/
theorem step_execute_drained (h : step s = .next t) (hw : (s.core c).wrPending = false) {i : Instr}
    (ha : (s.core c).slotEX.active = true) (hdec : decode (s.core c).slotEX.raw = .ok i)
    (hMEM : (s.core c).slotMEM.active = false) :
    (t.core c).slotWB = Slot.bubble ∧ ∃ m, (s.core c).Kept m ∧
      (t.core c).slotMEM =
        { (s.core c).slotEX with result := (instrStages i .execute m).sig.exResult, stall := false } := by
  have hp := memoryPasses_of_inactive hMEM
  obtain ⟨m, hkept, hres⟩ := evalCore_exResult (k := (s.core c).clearSignals) ha hdec
  rw [step_slotWB h hw hp, step_slotMEM h hw hp, hres]
  exact ⟨advance_inactive hMEM _, m, (kept_clearSignals _).trans hkept, advance_active ha _⟩

/-- R193: an instruction in the memory stage that is no load or store is in writeback next, with the same result. -/
theorem step_memory_passes (h : step s = .next t) (hw : (s.core c).wrPending = false)
    (ha : (s.core c).slotMEM.active = true) (hp : (s.core c).MemoryPasses) :
    (t.core c).slotWB = { (s.core c).slotMEM with stall := false } := by
  rw [step_slotWB h hw hp, advance_active ha]

end Flow

/-- Settles O55: with the stages behind decode empty the instruction moves one stage per cycle; it computes its result in
the second cycle, from registers that nothing has written since, and writes it in the fourth. -/
theorem resultCommitsFourCyclesLater : Obligations.ResultCommitsFourCyclesLater := by
  intro s c i q hinv ha hdec hop hdrained hqx hqpc
  have ⟨_, _, hWB⟩ := hdrained
  obtain ⟨-, hw, -, -, -⟩ := (hinv.cores c).quiet
  obtain ⟨s₁, h₁, hc₁⟩ := exists_step (commanded_of_inv hinv)
  obtain ⟨s₂, h₂, hc₂⟩ := exists_step hc₁
  obtain ⟨s₃, h₃, hc₃⟩ := exists_step hc₂
  obtain ⟨t, h₄, -⟩ := exists_step hc₃
  refine ⟨t, by rw [run_succ h₁, run_succ h₂, run_succ h₃, run_succ h₄]; rfl, fun n hn => ?_⟩
  have hw₁ := step_wrPending h₁ c
  have hw₂ := step_wrPending h₂ c
  -- the instruction's slot, cycle by cycle
  obtain ⟨hEX₁, hMEM₁, hWB₁⟩ := step_decode_drained h₁ hw ha hdrained
  obtain ⟨hWB₂, m, hkept, hMEM₂⟩ := step_execute_drained h₂ hw₁ (i := i) (by rw [hEX₁]; exact ha)
    (by rw [hEX₁]; exact hdec) (by rw [hMEM₁]; rfl)
  rw [hEX₁] at hMEM₂
  have hp₂ : (s₂.core c).MemoryPasses := by
    rw [Core.MemoryPasses, hMEM₂]
    exact fun _ => (decode_ok hdec).1 ▸ not_loadStore_of_producer hop
  have hWB₃ := step_memory_passes h₃ hw₂ (by rw [hMEM₂]; exact ha) hp₂
  rw [hMEM₂] at hWB₃
  have hdest : (s₃.core c).slotWB.dest = recordDest (decodeRecord (s.core c).slotID.raw) := by
    rw [hWB₃, Slot.dest]; exact if_pos ha
  -- the registers: nothing is written before the fourth cycle
  have hx₁ : ∀ n : RegNum, 2 ≤ n.val → (s₁.core c).x[n] = (s.core c).x[n] := fun n =>
    step_general_bubble h₁ hw hWB
  have hx₃ : (s₃.core c).x[n] = (s.core c).x[n] := by
    rw [step_general_bubble h₃ hw₂ (by rw [hWB₂]; rfl) hn, step_general_bubble h₂ hw₁ (by rw [hWB₁]; rfl) hn, hx₁ n hn]
  have hops : SameOperands q.x m.x := by rw [hkept.x, hqx]; exact sameOperands_of_general hx₁
  have hpc : m.slotEX.pc = q.pc := by rw [hkept.ex, hEX₁, hqpc]
  rw [step_general h₄ (step_wrPending h₃ c) hn, hdest, hx₃, hWB₃, seqExec_getElem hdec hop hops hpc, hqx]

end Sys2Proof.Proofs
end

section
/-!
The statements about the branches and jump-and-link (41_branch_jump.md): what `jal` does in each stage, and that a
control transfer in decode takes the program counter where the instruction-level view takes it, after its delay slot.
-/

namespace Sys2Proof.Proofs

open Sys2Proof Sys2Proof.Machine

/-! ## Targets and link values as numbers (R137, R138) -/

theorem branchTarget_eq (v : Word) : branchTarget v = BitVec.ofNat 10 (v.toNat % 1024) := by
  apply BitVec.eq_of_toNat_eq
  rw [branchTarget, BitVec.toNat_setWidth, BitVec.toNat_ofNat]
  exact (Nat.mod_mod _ 1024).symm

/-- R137: the next sequential program counter wraps at the instruction-memory size. -/
theorem linkValue_eq (pc : Pc) : linkValue pc = BitVec.ofNat 32 ((pc.toNat + 1) % 1024) := by
  apply BitVec.eq_of_toNat_eq
  rw [linkValue, BitVec.toNat_setWidth, BitVec.toNat_add, BitVec.toNat_ofNat]
  rfl

/-! ## The redirect of a branch or jump in decode (R184) -/

/-- R183: without a hazard decode does what its instruction does. -/
theorem decodeStage_of_no_hazard {srcs : List RegNum} {k : Core} (h : hazard k srcs = false) (act : Core → Core) :
    decodeStage srcs act k = act k := by
  rw [decodeStage, h]
  rfl

/-- Settles O15: each stage of `jal` is one shared stage function, and its target and its link value are the numbers
stated. -/
theorem jalLinksAndJumps : Obligations.JalLinksAndJumps := by
  intro rd rs rt imm s
  simp only [gives_iff]
  refine ⟨fun hs hz => ?decode, fun hs => ?execute, fun hs => ?memory, fun hs => ?writeback⟩ <;> rw [hs]
  case decode =>
    show decodeStage _ _ _ = _
    rw [decodeStage_of_no_hazard hz, resolve, branchTarget_eq]
  case execute =>
    show s.focusCore.setExResult (linkValue _) = _
    rw [linkValue_eq]
  case memory => rfl
  case writeback => rfl

/-- R130, R138, R139: without a hazard decode drives the redirect that the instruction-level view takes on the same
operands: next comes `npc`, and after it the target if the transfer is taken, else the word after `npc`. -/
theorem seqExec_redirect {i : Instr} (h9 : 9 ≤ i.op) (h15 : i.op ≤ 15) {m : Core}
    (hz : hazard m [i.rs, i.rt, i.rd] = false) {q : SeqState} (hx : q.x = m.x) :
    ∃ taken target, instrStages i .decode m = m.setRedirect taken target ∧ (seqExec i q).pc = q.npc ∧
      (seqExec i q).npc = if taken then target else q.npc + 1 := by
  have hbranch : ∀ (cond : Word → Word → Bool) (rd rs rt : RegNum) (imm : Word), hazard m [rs, rt, rd] = false →
      ∃ taken target, branchStages cond rd rs rt imm .decode m = m.setRedirect taken target ∧
        (seqBranch cond rd rs rt imm q).pc = q.npc ∧
        (seqBranch cond rd rs rt imm q).npc = if taken then target else q.npc + 1 := by
    intro cond rd rs rt imm hz
    refine ⟨_, _, decodeStage_of_no_hazard hz _, ?_⟩
    rw [seqBranch, hx, opval, opval]
    split <;> exact ⟨rfl, rfl⟩
  cases i with
  | beq | bne | blt | bgt | ble | bge => exact hbranch _ _ _ _ _ hz
  | jal rd rs rt imm =>
    refine ⟨true, branchTarget (opval m rd imm), decodeStage_of_no_hazard hz _, rfl, ?_⟩
    rw [opval, ← hx]
    rfl
  | add | sub | and | or | xor | mul | sll | sra | srl => exact absurd h9 (by simp [Instr.op])
  | lw | sw | halt => exact absurd h15 (by simp [Instr.op])

/-- The decode stage of an instruction in the `ID` slot. -/
theorem evalStageCore_decode_ok {k : Core} {i : Instr} (ha : k.slotID.active = true)
    (hd : decode k.slotID.raw = .ok i) : evalStageCore .decode k = instrStages i .decode k := by
  simp only [evalStageCore, stageWord, ha, if_true, hd]

/-- R170, R184: the redirect an evaluated core has driven is that of the instruction in decode, on the start-of-cycle
state. -/
theorem evalCore_redirect {k : Core} {i : Instr} (ha : k.slotID.active = true) (hd : decode k.slotID.raw = .ok i) :
    ∃ m, k.Kept m ∧ (evalCore k).sig.redirNow = (instrStages i .decode m).sig.redirNow ∧
      (evalCore k).sig.redirTgtNow = (instrStages i .decode m).sig.redirTgtNow := by
  have hk := ((kept_evalStageCore .writeback k).trans (kept_evalStageCore .memory _)).trans
    (kept_evalStageCore .execute _)
  refine ⟨_, hk, ?_⟩
  rw [evalCore, evalStageCore_decode_ok (hk.idActive.trans ha) (by rw [hk.idRaw, hd]), evalStageCore_fetch]
  rcases fetchStage_cases (instrStages i .decode _) with ⟨-, e⟩ | ⟨-, e⟩ <;> rw [e] <;> exact ⟨rfl, rfl⟩

/-! ## A cycle in which the pipeline moves and fetches (R195, R197, R203) -/

/-- R180, R193: no stage stalls on a memory stage that passes and a decode stage without a hazard. -/
theorem evaluated_unstalled {k e : Core} (hev : k.Evaluated e) (hp : k.MemoryPasses) (hm : k.slotMEM.stall = false)
    (hz : hazard k (recordSrcs (decodeRecord k.slotID.raw)) = false) :
    e.slotMEM.stall = false ∧ e.slotID.stall = false := by
  refine ⟨by rw [(evaluated_passes hev hp).1, hm], Bool.eq_false_iff.mpr fun hd => ?_⟩
  obtain ⟨-, hz'⟩ := hev.decStall.mp hd
  exact absurd (hz.symm.trans hz') nofun

/-- R207: while decode holds an instruction that is no `halt`, fetch is not stopped and the core is not halted. -/
theorem fetching_of_decode {k : Core} (h : k.HaltInv) (ha : k.slotID.active = true)
    (h20 : (decodeRecord k.slotID.raw).op ≠ 20) : k.stopFetch = false ∧ k.halted = false := by
  obtain ⟨hstop, -, -, -, hhalted⟩ := h
  have hf : k.stopFetch = false := Bool.eq_false_iff.mpr fun hf => h20 (hstop hf ha).2
  exact ⟨hf, Bool.eq_false_iff.mpr fun hh => absurd (hf.symm.trans (hhalted hh).1) nofun⟩

/-- R203: what was fetched is in decode after the edge when neither stage stalls. -/
theorem clockEdge_slotID {k : Core} (hm : k.slotMEM.stall = false) (hd : k.slotID.stall = false) :
    (clockEdge k).slotID = { k.slotIF with stall := false } := by
  rw [show (clockEdge k).slotID = { (edgeSlots (edgeCounters k)).slotID with stall := false } from rfl,
    edgeSlots_unstalled (k := edgeCounters k) hm hd]
  rfl

/-- R205: the edge latches the program counter that fetch drove. -/
theorem clockEdge_pc (k : Core) : (clockEdge k).pc = k.sig.pcNext := by
  obtain ⟨_, _, _, _, _, h⟩ := edgeSlots_frame (edgeCounters k)
  simp [clockEdge, h]

/-- R195, R197, R203: an instruction that leaves decode and is no `halt` is followed there by the word at `pc`; and `pc`
moves to the target, if decode drives a redirect and none was pending, else to the next word. -/
theorem step_fetches {s t : State} {c : CoreId} (h : step s = .next t) (hinv : (s.core c).Inv c)
    (hp : (s.core c).MemoryPasses) (ha : (s.core c).slotID.active = true)
    (hz : hazard (s.core c) (recordSrcs (decodeRecord (s.core c).slotID.raw)) = false)
    (h20 : (decodeRecord (s.core c).slotID.raw).op ≠ 20) (hr : (s.core c).redirectPending = false) :
    (t.core c).slotID =
        { active := true, pc := (s.core c).pc, raw := fetchWord (s.core c), result := 0, stall := false } ∧
      (t.core c).pc = if (evalCore (s.core c).clearSignals).sig.redirNow
        then (evalCore (s.core c).clearSignals).sig.redirTgtNow else (s.core c).pc + 1 := by
  obtain ⟨-, hw, -, -, -⟩ := hinv.quiet
  obtain ⟨ca, mb, ht⟩ := step_core h c
  have hev : (s.core c).clearSignals.Evaluated (evalCore (s.core c).clearSignals) := evalCore_evaluated hw rfl rfl
  generalize evalCore (s.core c).clearSignals = e at ht hev ⊢
  obtain ⟨hm, hd⟩ := evaluated_unstalled hev hp rfl hz
  obtain ⟨hstop, hhalt⟩ := fetching_of_decode hinv.halt ha h20
  have hhn : e.sig.haltNow = false := Bool.eq_false_iff.mpr fun hn => h20 (hev.haltNow.mp hn).2.2
  have hfetch : e.sig.fetchEn = true := by simp [hev.fetchEn, hm, hd, hhn, hstop, hhalt]
  constructor
  · calc (t.core c).slotID = { e.slotIF with stall := false } := by rw [ht]; exact clockEdge_slotID hm hd
      _ = _ := by rw [hev.slotIF, if_pos hfetch]; rfl
  · calc (t.core c).pc = e.sig.pcNext := by rw [ht, clockEdge_pc]
      _ = _ := by rw [hev.pcNext, if_pos hfetch]; cases e.sig.redirNow <;> simp [hr]

/-- Settles O56: the pipeline moves and fetches the delay slot, and the redirect that decode drives is the one the
instruction-level view takes. -/
theorem branchTakesEffectAfterDelaySlot : Obligations.BranchTakesEffectAfterDelaySlot := by
  intro s t c i q hinv h ha hdec h9 h15 hz hp hr hqx hqnpc
  obtain ⟨hop, hrd, hrs, hrt, -⟩ := decode_ok hdec
  have hsrcs : recordSrcs (decodeRecord (s.core c).slotID.raw) = [i.rs, i.rt, i.rd] := by
    rw [recordSrcs, if_pos (.inl (hop ▸ ⟨h9, h15⟩)), hrs, hrt, hrd]
  have h20 : (decodeRecord (s.core c).slotID.raw).op ≠ 20 := by
    rw [← hop]
    bv_omega
  obtain ⟨hID, hpc⟩ := step_fetches h (hinv.cores c) hp ha (hsrcs ▸ hz) h20 hr
  obtain ⟨m, hkept, hnow, htgt⟩ := evalCore_redirect (k := (s.core c).clearSignals) ha hdec
  have hm : (s.core c).Kept m := (kept_clearSignals _).trans hkept
  obtain ⟨taken, target, hredir, hseqpc, hseqnpc⟩ :=
    seqExec_redirect h9 h15 (m := m) (q := q) (by rw [hm.hazard, hz]) (by rw [hqx, hm.x])
  rw [hredir] at hnow htgt
  constructor
  · rw [hpc, hnow, htgt, hseqnpc, hqnpc]
    rfl
  · rw [hID, hseqpc, hqnpc]
    rfl

end Sys2Proof.Proofs
end

section
/-!
The statements about the load and the store (42_load_store.md): the effective address both drive in execute, and that a
load which hits in the memory stage is in the register file two cycles later.
-/

namespace Sys2Proof.Proofs

open Sys2Proof Sys2Proof.Machine

/-! ## The effective address (R150) -/

/-- R150: the masked address is the sum modulo 2^32, then modulo the data-memory size. -/
theorem effectiveAddress_eq (a b : Word) :
    effectiveAddress a b = BitVec.ofNat 32 ((a.toNat + b.toNat) % 2 ^ 32 % 2 ^ 20) := by
  apply BitVec.eq_of_toNat_eq
  calc (effectiveAddress a b).toNat
      = (a + b).toNat % 2 ^ 20 % 2 ^ 32 := by
        rw [effectiveAddress, BitVec.toNat_setWidth, addrOfWord_value, BitVec.toNat_setWidth]
    _ = _ := by rw [BitVec.toNat_add, BitVec.toNat_ofNat]

/-- R150, R186: in execute a load or a store drives the effective address of its two address operands. -/
theorem gives_executeAddress {i : Instr} {s : State} {rs rt : RegNum} {imm : Word}
    (hi : instrStages i s.focus.stage s.focusCore = executeAddress rs rt imm s.focusCore) :
    Gives i s (s.focusCore.setExResult (BitVec.ofNat 32
      (((opval s.focusCore rs imm).toNat + (opval s.focusCore rt imm).toNat) % 2 ^ 32 % 2 ^ 20))) := by
  rw [gives_iff, hi, executeAddress, effectiveAddress_eq]

/-- Settles O22: `lw` and `sw` share the execute stage, and its address is the number stated. -/
theorem loadStoreAddress : Obligations.LoadStoreAddress := fun _ _ _ _ _ hs =>
  ⟨gives_executeAddress (by rw [hs]; rfl), gives_executeAddress (by rw [hs]; rfl)⟩

/-! ## A load that hits: from the memory stage to the register file (R151, R190, R196) -/

/-- R190: a load that hits, with no request pending, drives the cache's word and does not stall. -/
theorem loadStage_hit {k : Core} (hp : k.mbox.pending = false)
    (hh : k.cache.hit (addrOfWord k.slotMEM.result) = true) :
    (loadStage k).slotMEM = k.slotMEM ∧
      (loadStage k).sig.memResult = k.cache.read (addrOfWord k.slotMEM.result) := by
  rcases loadStage_cases k with ⟨hp', -⟩ | ⟨-, -, e⟩ | ⟨-, hh', -⟩
  · exact absurd (hp'.symm.trans hp) nofun
  · rw [e]
    cases k.mbox.done <;> exact ⟨rfl, rfl⟩
  · exact absurd (hh.symm.trans hh') nofun

/-- R190, R201: a load that hits, with no request pending, is in writeback next, with the cache's word as its result. -/
theorem step_slotWB_load_hit {s t : State} {c : CoreId} (h : step s = .next t) (hw : (s.core c).wrPending = false)
    (ha : (s.core c).slotMEM.active = true) (hop : (decodeRecord (s.core c).slotMEM.raw).op = 16)
    (hp : (s.core c).mbox.pending = false) (hh : (s.core c).cache.hit (addrOfWord (s.core c).slotMEM.result) = true) :
    (t.core c).slotWB = { (s.core c).slotMEM with
      result := (s.core c).cache.read (addrOfWord (s.core c).slotMEM.result), stall := false } := by
  obtain ⟨e, ca, mb, hev, ht⟩ := step_evaluated h hw
  have hmem : evalStageCore .memory (s.core c).clearSignals = loadStage (s.core c).clearSignals := by
    rw [evalStageCore_memory]; exact if_pos ⟨ha, hop⟩
  obtain ⟨hslot, hres⟩ := loadStage_hit (k := (s.core c).clearSignals) hp hh
  rw [← hmem] at hslot hres
  have hslot := hev.access.slotMEM.trans hslot
  have hres := hev.access.memResult.trans hres
  have hstall : e.slotMEM.stall = false := by rw [hslot]; rfl
  calc (t.core c).slotWB = e.slotMEM.advance e.sig.memResult := by rw [ht]; exact clockEdge_slotWB hstall
    _ = _ := by rw [hslot, hres]; exact advance_active ha _

/-- R173: a general register is what a load writes exactly if it is the load's `rd`. -/
theorem dest_load_eq_some_iff {S : Slot} {rd rs rt : RegNum} {imm : Word} (ha : S.active = true)
    (hd : decode S.raw = .ok (.lw rd rs rt imm)) {n : RegNum} (hn : 2 ≤ n.val) : S.dest = some n ↔ n = rd := by
  obtain ⟨hop, hrd, -⟩ := decode_ok hd
  have hdest : S.dest = writable rd := by
    rw [Slot.dest, if_pos ha, recordDest, ← hop, ← hrd]; rfl
  rw [hdest, writable]
  split
  · rename_i h01
    have hne : n ≠ rd := by rintro rfl; rcases h01 with rfl | rfl <;> exact absurd hn (by decide)
    simp [hne]
  · rw [Option.some_inj, eq_comm]

/-- Settles O58: the first step takes the load to writeback with the cache's word, the second writes the registers. -/
theorem loadHitCommitsTwoCyclesLater : Obligations.LoadHitCommitsTwoCyclesLater := by
  intro s c rd rs rt imm hinv ha hd hp hh
  obtain ⟨-, hw, -, -, -⟩ := (hinv.cores c).quiet
  obtain ⟨t, ht, hct⟩ := exists_step (commanded_of_inv hinv)
  obtain ⟨u, hu, -⟩ := exists_step hct
  obtain ⟨hop, -⟩ := decode_ok hd
  have hWB := step_slotWB_load_hit ht hw ha hop.symm hp hh
  refine ⟨t, u, ht, hu, fun n hn => ?_⟩
  have hdest : (t.core c).slotWB.dest = some n ↔ n = rd := by
    rw [hWB]; exact dest_load_eq_some_iff ha hd hn
  rw [step_general hu (step_wrPending ht c) hn, if_congr hdest rfl rfl, hWB]

end Sys2Proof.Proofs
end

section
/-!
The statements about `halt` and the unknown opcodes (43_halt_unknown.md): what each does stage by stage, and that a
`halt` with nothing in the stages behind it halts its core in four cycles.
-/

namespace Sys2Proof.Proofs

open Sys2Proof Sys2Proof.Machine

/-! ## `halt` stage by stage (R160, R185, R196) -/

/-- Settles O16: each stage of `halt` is one shared stage function, but for the signal it drives in decode and the one
in writeback. -/
theorem haltStopsTheCore : Obligations.HaltStopsTheCore := by
  intro rd rs rt imm s
  simp only [gives_iff]
  refine ⟨fun hs hz => ?decode, fun hs => ?execute, fun hs => ?memory, fun hs => ?writeback⟩ <;> rw [hs]
  case decode => exact decodeStage_of_no_hazard hz Core.setHaltNow
  case execute => rfl
  case memory => rfl
  case writeback => rfl

/-! ## An unknown opcode stage by stage (R161) -/

/-- R195: the next word's address as a number. -/
theorem pc_succ_eq (pc : Pc) : pc + 1 = BitVec.ofNat Config.pcBits ((pc.toNat + 1) % Config.imemSize) := by
  apply BitVec.eq_of_toNat_eq
  rw [BitVec.toNat_add, BitVec.toNat_ofNat]
  exact (Nat.mod_mod _ 1024).symm

/-- R195, R197: the fetch stage makes of a core what `Core.afterFetch` spells out. -/
theorem fetchStage_eq_afterFetch (k : Core) : fetchStage k = k.afterFetch := by
  rw [fetchStage, pc_succ_eq]
  rfl

/-- R161: a word with an unknown opcode runs the stages of an instruction that does nothing but retire. -/
theorem evalStage_unknown {f : Focus} {s : State} {w : Word} {e : DecodeError} (hd : decode w = .error e)
    (hw : stageWord (s.core f.core) f.stage = some w) :
    evalStage f s =
      .next ((s.withFocus f).onFocus (idleStages (decodeRecord w).rs (decodeRecord w).rt)) := by
  simp only [evalStage, hw, hd]
  rfl

/-- Settles O7: an unknown opcode runs the idle stages, on the core under evaluation alone. -/
theorem unknownOpcodeIsNoOp : Obligations.UnknownOpcodeIsNoOp := by
  intro w e f s hd hw
  refine ⟨_, evalStage_unknown hd hw, onlyFocusCore_onFocus _ _, (focusCore_onFocus _ _).trans ?_⟩
  obtain ⟨c, st⟩ := f
  cases st with
  | fetch => exact fetchStage_eq_afterFetch (s.core c)
  | decode => rfl
  | execute => rfl
  | memory => rfl
  | writeback => rfl

/-! ## The retirement counter (R37, R196) -/

/-- R190, R191: an access is counted in its own counter, never as a retirement. -/
theorem instructions_loadStage (k : Core) : (loadStage k).counters.instructions = k.counters.instructions := by
  rcases loadStage_cases k with ⟨-, e⟩ | ⟨-, -, e⟩ | ⟨-, -, e⟩ <;> rw [e]
  · rfl
  · cases k.mbox.done <;> rfl
  · cases k.mbox.done <;> rfl

theorem instructions_storeStage (v : Word) (k : Core) :
    (storeStage v k).counters.instructions = k.counters.instructions := by
  rcases storeStage_cases v k with ⟨-, e⟩ | ⟨-, -, e⟩ | ⟨-, -, e⟩ <;> rw [e]
  · rfl
  · cases k.mbox.done <;> rfl
  · cases k.mbox.done <;> rfl

/-- R196: no stage but writeback counts a retirement. -/
theorem instructions_evalStageCore {st : Stage} (h : st ≠ .writeback) (k : Core) :
    (evalStageCore st k).counters.instructions = k.counters.instructions := by
  cases st with
  | writeback => exact absurd rfl h
  | memory =>
    rw [evalStageCore_memory]
    split
    · exact instructions_loadStage k
    · split
      · exact instructions_storeStage _ k
      · rfl
  | execute => obtain ⟨v, e⟩ := evalStageCore_execute k; rw [e]; rfl
  | decode =>
    rcases evalStageCore_decode k with ⟨-, -, e⟩ | ⟨-, ⟨-, -, -, _, _, e⟩ | ⟨-, -, e⟩ | ⟨-, e⟩⟩ <;> rw [e] <;> rfl
  | fetch =>
    rw [evalStageCore_fetch]
    rcases fetchStage_cases k with ⟨-, e⟩ | ⟨-, e⟩ <;> rw [e]

/-- R196: the evaluation of a core counts the instruction in writeback. -/
theorem instructions_evalCore (k : Core) :
    (evalCore k).counters.instructions = k.counters.instructions + if k.slotWB.active then 1 else 0 := by
  rw [evalCore, instructions_evalStageCore (st := .fetch) nofun, instructions_evalStageCore (st := .decode) nofun,
    instructions_evalStageCore (st := .execute) nofun, instructions_evalStageCore (st := .memory) nofun,
    evalStageCore_writeback]

/-- R206: the clock edge counts no retirement. -/
theorem clockEdge_instructions (k : Core) : (clockEdge k).counters.instructions = k.counters.instructions := by
  have hc : (edgeCounters k).counters.instructions = k.counters.instructions := rfl
  obtain ⟨_, _, _, _, _, h⟩ := edgeSlots_frame (edgeCounters k)
  simp [clockEdge, h, hc]

/-- R196: a step counts the instruction that was in writeback. -/
theorem step_instructions {s t : State} (h : step s = .next t) (c : CoreId) :
    (t.core c).counters.instructions =
      (s.core c).counters.instructions + if (s.core c).slotWB.active then 1 else 0 := by
  obtain ⟨ca, mb, ht⟩ := step_core h c
  rw [ht, clockEdge_instructions]
  exact instructions_evalCore (s.core c).clearSignals

/-! ## The latches a `halt` sets (R205) -/

theorem clockEdge_stopFetch (k : Core) : (clockEdge k).stopFetch = (k.stopFetch || k.sig.haltNow) := by
  obtain ⟨_, _, _, _, _, h⟩ := edgeSlots_frame (edgeCounters k)
  simp [clockEdge, h]

theorem clockEdge_halted_eq (k : Core) : (clockEdge k).halted = (k.halted || k.sig.haltWb) := by
  obtain ⟨_, _, _, _, _, h⟩ := edgeSlots_frame (edgeCounters k)
  simp [clockEdge, h]

/-! ## A `halt` on its way through the pipeline (R160, R205) -/

/-- R173: a `halt` writes no register. -/
theorem dest_of_holdsHalt {S : Slot} (h : S.holdsHalt) : S.dest = none := by
  obtain ⟨ha, h20⟩ := h
  rw [Slot.dest, if_pos ha, recordDest, h20]
  rfl

/-- R193: a `halt` passes the memory stage. -/
theorem memoryPasses_of_holdsHalt {k : Core} (h : k.slotMEM.holdsHalt) : k.MemoryPasses := fun _ => by
  rw [h.2]
  decide

section Halt

variable {s t : State} {c : CoreId}

/-- R185, R195: once fetch is stopped, or while decode resolves a `halt`, a step keeps `pc` and leaves fetch stopped. -/
theorem step_fetch_stopped (h : step s = .next t) (hw : (s.core c).wrPending = false)
    (hstop : (s.core c).stopFetch = true ∨ (s.core c).slotID.holdsHalt ∧
      hazard (s.core c) (recordSrcs (decodeRecord (s.core c).slotID.raw)) = false) :
    (t.core c).stopFetch = true ∧ (t.core c).pc = (s.core c).pc := by
  obtain ⟨e, ca, mb, hev, ht⟩ := step_evaluated h hw
  have hor : ((s.core c).stopFetch || e.sig.haltNow) = true := by
    rw [Bool.or_eq_true]
    exact hstop.imp_right fun ⟨⟨ha, h20⟩, hz⟩ => hev.haltNow.mpr ⟨ha, hz, h20⟩
  have hfetch : e.sig.fetchEn = false := by
    rw [hev.fetchEn]
    rcases Bool.or_eq_true_iff.mp hor with hf | hn
    · simp [hf]
    · simp [hn]
  constructor
  · calc (t.core c).stopFetch = (e.stopFetch || e.sig.haltNow) := by rw [ht, clockEdge_stopFetch]
      _ = true := by rw [hev.kept.stopFetch]; exact hor
  · calc (t.core c).pc = e.sig.pcNext := by rw [ht, clockEdge_pc]
      _ = _ := by rw [hev.pcNext, hfetch]; rfl

/-- R196, R205: a `halt` in writeback halts its core at the next edge. -/
theorem step_halted (h : step s = .next t) (hw : (s.core c).wrPending = false) (hWB : (s.core c).slotWB.holdsHalt) :
    (t.core c).halted = true := by
  obtain ⟨e, ca, mb, hev, ht⟩ := step_evaluated h hw
  have hsig : e.sig.haltWb = true := hev.haltWb.mpr hWB
  rw [ht, clockEdge_halted_eq]
  exact Bool.or_eq_true_iff.mpr (.inr hsig)

end Halt

/-- Settles O57: with the stages behind decode empty the `halt` moves one stage per cycle; it stops fetch in the first
cycle, before `pc` moves, and in the fourth it is the one instruction to retire. -/
theorem haltTakesFourCycles : Obligations.HaltTakesFourCycles := by
  intro s c i hinv ha hdec hop hdrained _
  have ⟨_, _, hWB⟩ := hdrained
  obtain ⟨-, hw, -, -, -⟩ := (hinv.cores c).quiet
  obtain ⟨s₁, h₁, hc₁⟩ := exists_step (commanded_of_inv hinv)
  obtain ⟨s₂, h₂, hc₂⟩ := exists_step hc₁
  obtain ⟨s₃, h₃, hc₃⟩ := exists_step hc₂
  obtain ⟨t, h₄, -⟩ := exists_step hc₃
  have hw₁ := step_wrPending h₁ c
  have hw₂ := step_wrPending h₂ c
  have hw₃ := step_wrPending h₃ c
  -- the slot of the `halt`, cycle by cycle
  have hID : (s.core c).slotID.holdsHalt := ⟨ha, (decode_ok hdec).1.symm.trans hop⟩
  obtain ⟨hEX₁, hMEM₁, hWB₁⟩ := step_decode_drained h₁ hw ha hdrained
  obtain ⟨hWB₂, m, -, hMEM₂⟩ := step_execute_drained h₂ hw₁ (i := i) (by rw [hEX₁]; exact ha)
    (by rw [hEX₁]; exact hdec) (by rw [hMEM₁]; rfl)
  rw [hEX₁] at hMEM₂
  have hhalt₂ : (s₂.core c).slotMEM.holdsHalt := by rw [hMEM₂]; exact hID
  have hWB₃ := step_memory_passes h₃ hw₂ hhalt₂.1 (memoryPasses_of_holdsHalt hhalt₂)
  have hhalt₃ : (s₃.core c).slotWB.holdsHalt := by rw [hWB₃]; exact hhalt₂
  -- fetch is stopped from the first cycle on
  obtain ⟨hstop₁, hpc₁⟩ := step_fetch_stopped h₁ hw (.inr ⟨hID, hazard_drained hdrained _⟩)
  obtain ⟨hstop₂, hpc₂⟩ := step_fetch_stopped h₂ hw₁ (.inl hstop₁)
  obtain ⟨hstop₃, hpc₃⟩ := step_fetch_stopped h₃ hw₂ (.inl hstop₂)
  obtain ⟨-, hpc₄⟩ := step_fetch_stopped h₄ hw₃ (.inl hstop₃)
  refine ⟨t, by rw [run_succ h₁, run_succ h₂, run_succ h₃, run_succ h₄]; rfl, step_halted h₄ hw₃ hhalt₃,
    by rw [hpc₄, hpc₃, hpc₂, hpc₁], fun n hn => ?_, ?_⟩
  · have hnone : (s₃.core c).slotWB.dest ≠ some n := by rw [dest_of_holdsHalt hhalt₃]; nofun
    rw [step_general h₄ hw₃ hn, if_neg hnone, step_general_bubble h₃ hw₂ (by rw [hWB₂]; rfl) hn,
      step_general_bubble h₂ hw₁ (by rw [hWB₁]; rfl) hn, step_general_bubble h₁ hw hWB hn]
  · rw [step_instructions h₄, step_instructions h₃, step_instructions h₂, step_instructions h₁, hhalt₃.1, hWB₂, hWB₁,
      hWB]
    rfl

end Sys2Proof.Proofs
end

section
/-!
The statements about the pipeline stages of one instruction (44_pipeline.md rules R173 to R197): the hazard condition,
decode, fetch, the accesses of the memory stage, and writeback.
-/

namespace Sys2Proof.Proofs

open Sys2Proof Sys2Proof.Machine

/-! ## Instructions by class: the stages an opcode selects (R94) -/

/-- R94, R110: the stages of the nine arithmetic and logic instructions. -/
theorem instrStages_alu {i : Instr} (h : i.op ≤ 8) :
    ∃ alu, instrStages i = aluStages alu i.rd i.rs i.rt i.imm := by
  cases i with
  | add | sub | and | or | xor | mul | sll | sra | srl => exact ⟨_, rfl⟩
  | beq | bne | blt | bgt | ble | bge | jal | lw | sw | halt => exact absurd h (by simp [Instr.op])

/-- R94, R130: the stages of the six branches. -/
theorem instrStages_branch {i : Instr} (h9 : 9 ≤ i.op) (h14 : i.op ≤ 14) :
    ∃ cond, instrStages i = branchStages cond i.rd i.rs i.rt i.imm := by
  cases i with
  | beq | bne | blt | bgt | ble | bge => exact ⟨_, rfl⟩
  | add | sub | and | or | xor | mul | sll | sra | srl => exact absurd h9 (by simp [Instr.op])
  | jal | lw | sw | halt => exact absurd h14 (by simp [Instr.op])

theorem instrStages_lw {i : Instr} (h : i.op = 16) : instrStages i = lwStages i.rd i.rs i.rt i.imm := by
  cases i with
  | lw => rfl
  | _ => exact absurd h (by simp [Instr.op])

theorem instrStages_sw {i : Instr} (h : i.op = 17) : instrStages i = swStages i.rd i.rs i.rt i.imm := by
  cases i with
  | sw => rfl
  | _ => exact absurd h (by simp [Instr.op])

/-! ## Writeback, and the instructions that pass the memory stage (R193, R196) -/

/-- R196: writeback retires, and latches the write unless the destination is register 0 or 1. -/
theorem writeback_eq (d : RegNum) (k : Core) :
    writeback d k = if d = 0 ∨ d = 1 then k.retired else k.retiredWriting d k.slotWB.result := by
  rcases writeback_cases d k with ⟨h, e⟩ | ⟨h0, h1, e⟩ <;> rw [e]
  · rw [if_pos h]; rfl
  · rw [if_neg (not_or.mpr ⟨h0, h1⟩)]; rfl

/-- Settles O13: the nine arithmetic and logic instructions and `lw` share the writeback stage. -/
theorem producersWriteTheirDestination : Obligations.ProducersWriteTheirDestination := by
  intro i s hop
  simp only [gives_iff]
  refine ⟨fun hs => ?writeback, fun hs h16 => ?memory⟩ <;> rw [hs]
  case writeback =>
    rw [← writeback_eq]
    rcases hop with h8 | h16
    · obtain ⟨alu, hi⟩ := instrStages_alu h8
      rw [hi]; rfl
    · rw [instrStages_lw h16]; rfl
  case memory =>
    obtain ⟨alu, hi⟩ := instrStages_alu (hop.resolve_right h16)
    rw [hi]; rfl

/-- Settles O17: the branches and `sw` share the writeback stage that only retires. -/
theorem branchesAndStoresWriteNoRegister : Obligations.BranchesAndStoresWriteNoRegister := by
  intro i s hop
  have hbranch (h17 : i.op ≠ 17) : ∃ cond, instrStages i = branchStages cond i.rd i.rs i.rt i.imm :=
    have ⟨h9, h14⟩ := hop.resolve_right h17
    instrStages_branch h9 h14
  simp only [gives_iff]
  refine ⟨fun hs => ?writeback, fun hs h17 => ?memory, fun hs h17 => ?execute⟩ <;> rw [hs]
  case writeback =>
    by_cases h17 : i.op = 17
    · rw [instrStages_sw h17]; rfl
    · obtain ⟨cond, hi⟩ := hbranch h17
      rw [hi]; rfl
  case memory =>
    obtain ⟨cond, hi⟩ := hbranch h17
    rw [hi]; rfl
  case execute =>
    obtain ⟨cond, hi⟩ := hbranch h17
    rw [hi]; rfl

/-! ## Branches in decode (R131 to R138, R184) -/

/-- R184: without a hazard a branch drives the redirect by its condition, to the low bits of its `rd` operand. -/
theorem gives_resolve {i : Instr} {s : State} (hs : s.focus.stage = .decode) {cond : Word → Word → Bool}
    {rd rs rt : RegNum} {imm : Word} (hi : instrStages i = branchStages cond rd rs rt imm)
    (hz : hazard s.focusCore [rs, rt, rd] = false) {taken : Bool}
    (ht : cond (opval s.focusCore rs imm) (opval s.focusCore rt imm) = taken) :
    Gives i s (s.focusCore.setRedirect taken (BitVec.ofNat 10 ((opval s.focusCore rd imm).toNat % 1024))) := by
  rw [gives_iff, hs, hi, ← ht, ← branchTarget_eq]
  exact decodeStage_of_no_hazard hz _

/-- R131: words are equal exactly when their values are. -/
theorem takenBeq_eq (a b : Word) : takenBeq a b = decide (a.toNat = b.toNat) :=
  decide_eq_decide.mpr BitVec.toNat_inj.symm

theorem takenBne_eq (a b : Word) : takenBne a b = decide (a.toNat ≠ b.toNat) :=
  decide_eq_decide.mpr (not_congr BitVec.toNat_inj.symm)

theorem toInt_le_iff (a b : Word) : a.toInt ≤ b.toInt ↔ a.toInt < b.toInt ∨ a = b := by
  rw [le_iff_lt_or_eq, BitVec.toInt_inj]

theorem takenBle_eq (a b : Word) : takenBle a b = decide (a.toInt < b.toInt ∨ a = b) :=
  decide_eq_decide.mpr (toInt_le_iff a b)

theorem takenBge_eq (a b : Word) : takenBge a b = decide (b.toInt < a.toInt ∨ a = b) :=
  decide_eq_decide.mpr ((toInt_le_iff b a).trans (or_congr_right eq_comm))

/-- Settles O14: the six branches differ in their condition alone. -/
theorem branchesResolveInDecode : Obligations.BranchesResolveInDecode := fun _ _ _ _ _ hs hz =>
  ⟨gives_resolve hs rfl hz (takenBeq_eq ..), gives_resolve hs rfl hz (takenBne_eq ..), gives_resolve hs rfl hz rfl,
    gives_resolve hs rfl hz rfl, gives_resolve hs rfl hz (takenBle_eq ..), gives_resolve hs rfl hz (takenBge_eq ..)⟩

/-! ## The hazard condition (R173, R174, R180) -/

theorem writable_eq_some_iff (n d : RegNum) : writable n = some d ↔ d ≠ 0 ∧ d ≠ 1 ∧ d = n := by
  rw [writable]
  split
  · rename_i h
    refine ⟨nofun, ?_⟩
    rintro ⟨h0, h1, rfl⟩
    exact absurd h (not_or.mpr ⟨h0, h1⟩)
  · rename_i h
    obtain ⟨h0, h1⟩ := not_or.mp h
    rw [Option.some_inj]
    constructor
    · rintro rfl; exact ⟨h0, h1, rfl⟩
    · rintro ⟨-, -, rfl⟩; rfl

/-- R173: the destination of a record: its `rd` or register 15 by its opcode, and never 0 or 1. -/
theorem recordDest_eq_some_iff (r : InstrRecord) (d : RegNum) :
    recordDest r = some d ↔
      d ≠ 0 ∧ d ≠ 1 ∧ (((r.op ≤ 8 ∨ r.op = 16) ∧ d = r.rd) ∨ (r.op = 15 ∧ d = 15)) := by
  rw [recordDest]
  by_cases hp : r.op ≤ 8 ∨ r.op = 16
  · have h15 : r.op ≠ 15 := by bv_omega
    simp only [hp, h15, if_true, true_and, false_and, or_false, writable_eq_some_iff]
  · by_cases h15 : r.op = 15
    · simp only [hp, eq_true h15, if_false, if_true, true_and, false_and, false_or, writable_eq_some_iff]
    · simp only [hp, h15, if_false, false_and, or_false, and_false, reduceCtorEq]

/-- R173: the destination of a slot: its word's, if the slot is no bubble. -/
theorem slotDest_eq_some_iff (S : Slot) (d : RegNum) :
    S.dest = some d ↔ S.active = true ∧ recordDest (decodeRecord S.raw) = some d := by
  rw [Slot.dest]
  cases S.active <;> simp

/-- R180: the hazard condition as a statement about destinations. -/
theorem hazard_iff (k : Core) (srcs : List RegNum) :
    hazard k srcs = true ↔ ∃ S ∈ [k.slotEX, k.slotMEM, k.slotWB], ∃ d ∈ srcs, S.dest = some d := by
  rw [hazard, List.any_eq_true]
  refine exists_congr fun S => and_congr_right fun _ => ?_
  cases S.dest with
  | none => simp
  | some d => simp

/-- Settles O18: the destination of a slot, spelled out by the opcode of its word. -/
theorem hazardCondition : Obligations.HazardCondition := by
  intro k srcs
  rw [hazard_iff]
  refine exists_congr fun S => and_congr_right fun _ => ?_
  simp only [slotDest_eq_some_iff, recordDest_eq_some_iff]
  constructor
  · rintro ⟨d, hd, ha, hdest⟩
    exact ⟨ha, d, hd, hdest⟩
  · rintro ⟨ha, d, hd, hdest⟩
    exact ⟨d, hd, ha, hdest⟩

/-- R174: the registers an instruction is checked on, by its opcode. -/
theorem instrSrcs_eq_ite (i : Instr) :
    instrSrcs i = if (9 ≤ i.op ∧ i.op ≤ 15) ∨ i.op = 17 then [i.rs, i.rt, i.rd] else [i.rs, i.rt] := by
  cases i <;> rfl

/-- R182: with a hazard every instruction's decode stage raises the stall flag and does nothing else. -/
theorem instrStages_decode_hazard {i : Instr} {k : Core} (h : hazard k (instrSrcs i) = true) :
    instrStages i .decode k = k.setDecStall true := by
  rcases instrStages_decode i k with ⟨-, e⟩ | ⟨hz, -⟩
  · exact e
  · exact absurd (h.symm.trans hz) nofun

/-- R183: without a hazard an arithmetic or logic instruction, a load or a store does nothing in decode. -/
theorem instrStages_decode_idle {i : Instr} {k : Core} (h : hazard k (instrSrcs i) = false)
    (hop : i.op ≤ 8 ∨ i.op = 16 ∨ i.op = 17) : instrStages i .decode k = k := by
  cases i with
  | add | sub | and | or | xor | mul | sll | sra | srl | lw | sw => exact decodeStage_of_no_hazard h id
  | beq | bne | blt | bgt | ble | bge | jal | halt => exact absurd hop (by simp [Instr.op])

/-- R91: the opcode is the most significant byte of the word. -/
theorem op_toNat (w : Word) : (decodeRecord w).op.toNat = w.toNat / 2 ^ 24 := by
  show (w.extractLsb' 24 8).toNat = _
  have hw := word_toNat_lt w
  rw [BitVec.extractLsb'_toNat, Nat.shiftRight_eq_div_pow]
  exact Nat.mod_eq_of_lt (by omega)

/-- Settles O19: the decode stage by the hazard condition, and the registers of R174 by the opcode as a number. -/
theorem decodeStallsOnHazard : Obligations.DecodeStallsOnHazard := by
  refine ⟨fun i s hs => ?_, fun w n => ?_⟩
  · rw [← instrSrcs_eq_ite, gives_iff, gives_iff, hs]
    exact ⟨instrStages_decode_hazard, instrStages_decode_idle⟩
  · have hop : ((9 ≤ (decodeRecord w).op ∧ (decodeRecord w).op ≤ 15) ∨ (decodeRecord w).op = 17) ↔
        (9 ≤ w.toNat / 2 ^ 24 ∧ w.toNat / 2 ^ 24 ≤ 15 ∨ w.toNat / 2 ^ 24 = 17) := by
      rw [← op_toNat]
      bv_omega
    rw [recordSrcs, ← hop]
    split <;> rename_i h <;> simp only [List.mem_cons, List.not_mem_nil, or_false, h, and_true, and_false]

/-! ## Fetch (R195, R197) -/

/-- Settles O21: every instruction has the fetch stage that `Core.afterFetch` spells out. -/
protected theorem fetchStage : Obligations.FetchStage := by
  intro i s hs
  rw [gives_iff, hs, instrStages_fetch, fetchStage_eq_afterFetch]

/-! ## The accesses of the memory stage (R190 to R192, R221 to R223) -/

/-- R221: a hit is a valid line with the address's tag. -/
theorem hit_iff (ca : Cache) (a : Addr) :
    ca.hit a = true ↔ (ca.line (addrIndex a)).state ≠ .invalid ∧ (ca.line (addrIndex a)).tag = addrTag a := by
  simp [Cache.hit, Cache.holds]

/-- R221: a miss is an Invalid line or one of another tag. -/
theorem hit_eq_false_iff (ca : Cache) (a : Addr) :
    ca.hit a = false ↔ (ca.line (addrIndex a)).state = .invalid ∨ (ca.line (addrIndex a)).tag ≠ addrTag a := by
  rw [← Bool.not_eq_true, hit_iff, not_and_or, not_not]

/-- R223 (1): a line can be written in place when it is owned and holds the block. -/
theorem ownsForWrite_iff (ca : Cache) (a : Addr) :
    ca.ownsForWrite a = true ↔ (ca.line (addrIndex a)).tag = addrTag a ∧ (ca.line (addrIndex a)).Owned := by
  simp [Cache.ownsForWrite]

/-- R223 (2), (3): else it is Shared, Invalid or of another tag. -/
theorem ownsForWrite_eq_false_iff (ca : Cache) (a : Addr) :
    ca.ownsForWrite a = false ↔ (ca.line (addrIndex a)).state = .shared ∨
      (ca.line (addrIndex a)).state = .invalid ∨ (ca.line (addrIndex a)).tag ≠ addrTag a := by
  rw [← Bool.not_eq_true, ownsForWrite_iff]
  cases hs : (ca.line (addrIndex a)).state <;> simp [TagState.Owned, hs]

/-- R190: a load that hits. -/
theorem loadStage_of_hit {k : Core} (hp : k.mbox.pending = false)
    (hh : k.cache.hit (addrOfWord k.slotMEM.result) = true) :
    loadStage k = { k with
      mbox := { k.mbox with done := false }
      counters := { k.counters with readHit := k.counters.readHit + if k.mbox.done then 0 else 1 }
      sig := { k.sig with memResult := k.cache.read (addrOfWord k.slotMEM.result) } } := by
  rw [loadStage, if_neg (Bool.eq_false_iff.mp hp)]
  simp only [hh, if_true]
  cases k.mbox.done <;> rfl

/-- R190, R241: a load that misses. -/
theorem loadStage_of_miss {k : Core} (hp : k.mbox.pending = false)
    (hh : k.cache.hit (addrOfWord k.slotMEM.result) = false) :
    loadStage k = { k with
      mbox := { k.mbox with addr := addrOfWord k.slotMEM.result, cmd := .read, pending := true, done := false }
      counters := { k.counters with readMiss := k.counters.readMiss + if k.mbox.done then 0 else 1 }
      slotMEM := { k.slotMEM with stall := true } } := by
  rw [loadStage, if_neg (Bool.eq_false_iff.mp hp)]
  simp only [hh]
  cases k.mbox.done <;> rfl

/-- R191, R223 (1): a store to a line that can be written in place. -/
theorem storeStage_of_owned {k : Core} (v : Word) (hp : k.mbox.pending = false)
    (hw : k.cache.ownsForWrite (addrOfWord k.slotMEM.result) = true) :
    storeStage v k = { k with
      cache := k.cache.writeInPlace (addrOfWord k.slotMEM.result) v
      mbox := { k.mbox with done := false }
      counters := { k.counters with writeHit := k.counters.writeHit + if k.mbox.done then 0 else 1 }
      sig := { k.sig with memResult := k.slotMEM.result } } := by
  rw [storeStage, if_neg (Bool.eq_false_iff.mp hp)]
  simp only [writeAttempt, Core.acknowledge_cache, hw, if_true]
  cases k.mbox.done <;> rfl

/-- R191, R223 (2), (3), R241: a store to a line that cannot. -/
theorem storeStage_of_not_owned {k : Core} (v : Word) (hp : k.mbox.pending = false)
    (hw : k.cache.ownsForWrite (addrOfWord k.slotMEM.result) = false) :
    storeStage v k = { k with
      mbox := { k.mbox with addr := addrOfWord k.slotMEM.result, cmd := .readExclusive, pending := true, done := false }
      counters := { k.counters with writeMiss := k.counters.writeMiss + if k.mbox.done then 0 else 1 }
      slotMEM := { k.slotMEM with stall := true } } := by
  rw [storeStage, if_neg (Bool.eq_false_iff.mp hp)]
  simp only [writeAttempt, Core.acknowledge_cache, hw]
  cases k.mbox.done <;> rfl

/-- Settles O23: the line is a hit. -/
theorem loadHit : Obligations.LoadHit := by
  intro rd rs rt imm s hs k a hp hv ht
  rw [gives_iff, hs]
  exact loadStage_of_hit hp ((hit_iff _ _).mpr ⟨hv, ht⟩)

/-- Settles O24: the line is a miss. -/
theorem loadMiss : Obligations.LoadMiss := by
  intro rd rs rt imm s hs k a hp hm
  rw [gives_iff, hs]
  exact loadStage_of_miss hp ((hit_eq_false_iff _ _).mpr hm)

/-- R223 (1): a write in place makes its line Modified, of the tag it had, and leaves every other line. -/
theorem line_writeInPlace (ca : Cache) (a : Addr) (v : Word) (j : LineIndex) :
    (ca.writeInPlace a v).line j =
      if j = addrIndex a then { tag := (ca.line (addrIndex a)).tag, state := .modified } else ca.line j := by
  rw [Cache.writeInPlace, Cache.setState]
  split
  · rename_i h
    rw [h, Cache.line_setLine_same, Cache.line_setWord]
  · rename_i h
    rw [Cache.line_setLine_other _ _ h, Cache.line_setWord]

/-- Settles O25: the line can be written in place, which changes one word and one line of the cache. -/
theorem storeHit : Obligations.StoreHit := by
  intro rd rs rt imm s hs k a hp ht ho
  refine ⟨k.cache.writeInPlace a (opval k rd imm), ⟨fun j => ?_, word_writeInPlace _ _ _⟩, ?_⟩
  · rw [line_writeInPlace, ht]
  · rw [gives_iff, hs]
    exact storeStage_of_owned _ hp ((ownsForWrite_iff _ _).mpr ⟨ht, ho⟩)

/-- Settles O26: the line cannot be written in place. -/
theorem storeFailsWithoutOwnership : Obligations.StoreFailsWithoutOwnership := by
  intro rd rs rt imm s hs k a hp hf
  rw [gives_iff, hs]
  exact storeStage_of_not_owned _ hp ((ownsForWrite_eq_false_iff _ _).mpr hf)

/-- R192: with a request pending the load stage and the store stage raise the stall flag alone. -/
theorem loadStage_pending {k : Core} (hp : k.mbox.pending = true) : loadStage k = k.setMemStall true := by
  rw [loadStage, if_pos hp]

theorem storeStage_pending {k : Core} (v : Word) (hp : k.mbox.pending = true) :
    storeStage v k = k.setMemStall true := by
  rw [storeStage, if_pos hp]

/-- Settles O27: the pending case of the load stage and of the store stage. -/
theorem waitingLoadOrStoreOnlyStalls : Obligations.WaitingLoadOrStoreOnlyStalls := by
  intro i s hop hs hp
  rw [gives_iff, hs]
  rcases hop with h16 | h17
  · rw [instrStages_lw h16]
    exact loadStage_pending hp
  · rw [instrStages_sw h17]
    exact storeStage_pending _ hp

end Sys2Proof.Proofs
end

section
/-!
The statements about the clock edge (44_pipeline.md rules R200 to R206): how the slots advance, what the register file,
the latches and the counters become.
-/

namespace Sys2Proof.Proofs

open Sys2Proof Sys2Proof.Machine

/-! ## The slots at the edge (R200 to R203) -/

/-- The edge clears the stall flags of the advanced slots and touches the slots no further. -/
theorem clockEdge_slots (k : Core) :
    (clockEdge k).slotIF = (edgeSlots (edgeCounters k)).slotIF ∧
    (clockEdge k).slotID = { (edgeSlots (edgeCounters k)).slotID with stall := false } ∧
    (clockEdge k).slotEX = (edgeSlots (edgeCounters k)).slotEX ∧
    (clockEdge k).slotMEM = { (edgeSlots (edgeCounters k)).slotMEM with stall := false } ∧
    (clockEdge k).slotWB = (edgeSlots (edgeCounters k)).slotWB := ⟨rfl, rfl, rfl, rfl, rfl⟩

/-- R200: with memory stalled only writeback's slot changes. -/
theorem edgeSlots_memStalled {k : Core} (hm : k.slotMEM.stall = true) :
    edgeSlots k = { k with slotWB := Slot.bubble } := by
  simp [edgeSlots, hm]

/-- R202: with decode stalled the two stages behind execute advance and execute becomes a bubble. -/
theorem edgeSlots_decStalled {k : Core} (hm : k.slotMEM.stall = false) (hd : k.slotID.stall = true) :
    edgeSlots k = { k with
      slotWB := k.slotMEM.advance k.sig.memResult
      slotMEM := k.slotEX.advance k.sig.exResult
      slotEX := Slot.bubble } := by
  simp [edgeSlots, hm, hd]

theorem clockEdge_slotEX_decStalled {k : Core} (hm : k.slotMEM.stall = false) (hd : k.slotID.stall = true) :
    (clockEdge k).slotEX = Slot.bubble ∧ (clockEdge k).slotID = { k.slotID with stall := false } ∧
      (clockEdge k).slotIF = k.slotIF := by
  obtain ⟨hIF, hID, hEX, -, -⟩ := clockEdge_slots k
  rw [hIF, hID, hEX, edgeSlots_decStalled (k := edgeCounters k) hm hd]
  exact ⟨rfl, rfl, rfl⟩

/-- R203: fetch's slot is cleared when neither stage stalls. -/
theorem clockEdge_slotIF_unstalled {k : Core} (hm : k.slotMEM.stall = false) (hd : k.slotID.stall = false) :
    (clockEdge k).slotIF = Slot.bubble := by
  obtain ⟨hIF, -⟩ := clockEdge_slots k
  rw [hIF, edgeSlots_unstalled (k := edgeCounters k) hm hd]

/-- Clearing the stall flag of a slot whose flag is not set changes nothing. -/
theorem clearStall_of_unstalled {S : Slot} (h : S.stall = false) (v : Word) :
    ({ S with result := v, stall := false } : Slot) = { S with result := v } := by
  rw [← h]

/-- R201: an unstalled slot moves as it is but for its result; a bubble moves as a bubble. -/
theorem advance_unstalled {S : Slot} (h : S.stall = false) (v : Word) :
    S.advance v = if S.active then { S with result := v } else Slot.bubble := by
  rw [Slot.advance, clearStall_of_unstalled h]

/-! ## The register file at the edge (R204) -/

theorem clockEdge_x (k : Core) : (clockEdge k).x = committedRegs (edgeSlots (edgeCounters k)) := rfl

/-- R204: the commit, register by register: the last of its three writes to a register decides. -/
theorem getElem_committedRegs (k : Core) (n : RegNum) :
    (committedRegs k)[n] =
      if k.wrPending = true ∧ n = k.wrDest then k.wrValue
      else if n = 0 then 0 else if n = 1 then aliasValue k else k.x[n] := by
  have hbase : ((k.x.set 0 0).set 1 (aliasValue k))[n] =
      if n = 0 then 0 else if n = 1 then aliasValue k else k.x[n] := by
    obtain rfl | rfl | hn := regNum_cases n
    · simp
    · simp
    · have h0 : n ≠ 0 := by rintro rfl; exact absurd hn (by decide)
      have h1 : n ≠ 1 := by rintro rfl; exact absurd hn (by decide)
      rw [if_neg h0, if_neg h1]
      exact getElem_pokeReserved k.x 0 (aliasValue k) hn
  rw [committedRegs]
  cases hp : k.wrPending
  · simpa using hbase
  · by_cases hd : n = k.wrDest
    · simp [hd]
    · have hv : k.wrDest.val ≠ n.val := fun e => hd (Fin.ext e.symm)
      simpa [hd, hv] using hbase

/-- R204: the register file after the edge, register by register. -/
theorem getElem_clockEdge_x (k : Core) (n : RegNum) :
    (clockEdge k).x[n] =
      if k.wrPending = true ∧ n = k.wrDest then k.wrValue
      else if n = 0 then 0
      else if n = 1 ∧ (clockEdge k).slotID.active = true then (decodeRecord (clockEdge k).slotID.raw).imm
      else k.x[n] := by
  obtain ⟨-, hID, -⟩ := clockEdge_slots k
  rw [clockEdge_x, getElem_committedRegs, hID, aliasValue]
  obtain ⟨_, _, _, _, _, he⟩ := edgeSlots_frame (edgeCounters k)
  rw [he]
  by_cases h1 : n = 1
  · subst h1
    simp
  · simp [h1]

/-! ## The latches and the counters at the edge (R205, R206) -/

theorem clockEdge_redirect (k : Core) :
    (clockEdge k).redirectPending = k.sig.redirectPendingNext ∧
      (clockEdge k).redirectTarget = k.sig.redirectTargetNext := by
  obtain ⟨_, _, _, _, _, h⟩ := edgeSlots_frame (edgeCounters k)
  simp [clockEdge, h]

/-- R206: of the edge's parts only the counting touches the counters. -/
theorem clockEdge_counters (k : Core) : (clockEdge k).counters = (edgeCounters k).counters := by
  obtain ⟨_, _, _, _, _, h⟩ := edgeSlots_frame (edgeCounters k)
  simp [clockEdge, h]

/-- Settles O28: the edge of a core whose memory stage stalls, slot by slot and latch by latch. -/
theorem edgeWithMemoryStalled : Obligations.EdgeWithMemoryStalled := by
  intro k hm
  obtain ⟨hIF, hID, hEX, hMEM, hWB⟩ := clockEdge_slots k
  obtain ⟨hpending, htarget⟩ := clockEdge_redirect k
  rw [edgeSlots_memStalled (k := edgeCounters k) hm] at hIF hID hEX hMEM hWB
  refine ⟨hWB, hMEM, hEX, hID, hIF, fun hp => ?_, clockEdge_pc k, hpending, htarget, clockEdge_stopFetch k,
    clockEdge_halted_eq k⟩
  rw [getElem_clockEdge_x, if_pos ⟨hp, rfl⟩]

/-- Settles O29: memory's and execute's slots advance whatever decode does; decode's and fetch's by its stall flag. -/
theorem edgeAdvance : Obligations.EdgeAdvance := by
  intro k hm
  refine ⟨?_, clockEdge_slotMEM hm, clockEdge_slotEX_decStalled hm, fun hd => ?_⟩
  · rw [clockEdge_slotWB hm, advance_unstalled hm]
  · rw [clockEdge_slotEX hm hd, advance_unstalled hd]
    exact ⟨rfl, clockEdge_slotID hm hd, clockEdge_slotIF_unstalled hm hd⟩

/-- Settles O30: the register file after the edge, register by register, with the latch cleared. -/
theorem edgeRegisterCommit : Obligations.EdgeRegisterCommit := fun k _ => ⟨getElem_clockEdge_x k, rfl⟩

/-- Settles O31: the latches take what the cycle drove, and the counters are those of the edge's own counting. -/
theorem edgeLatchesAndCounters : Obligations.EdgeLatchesAndCounters := by
  intro k
  obtain ⟨hpending, htarget⟩ := clockEdge_redirect k
  exact ⟨clockEdge_pc k, hpending, htarget, clockEdge_stopFetch k, clockEdge_halted_eq k, clockEdge_counters k⟩

end Sys2Proof.Proofs
end

section
/-!
The statements about a whole evaluation phase (44_pipeline.md rules R170, R180, 48_cycle.md rule R300): where in it an
instruction runs, and the decode stall signal it computes.
-/

namespace Sys2Proof.Proofs

open Sys2Proof Sys2Proof.Machine

/-! ## The schedule, cut at one stage evaluation (R170, R300) -/

theorem andThen_andThen (o : Host.Outcome State Fault Refusal) (f g : State → Host.Outcome State Fault Refusal) :
    andThen (andThen o f) g = andThen o fun s => andThen (f s) g := by
  cases o <;> rfl

/-- Every stage of every core has its place in the schedule. -/
theorem exists_schedule_place (f : Focus) : ∃ n : Nat, schedule[n]? = some f := by
  have hmem : f ∈ schedule := by
    obtain ⟨c, st⟩ := f
    revert c
    cases st <;> decide
  exact List.mem_iff_getElem?.mp hmem

/-- A sequence of stage evaluations is the part before one of them, that one, and the part behind it. -/
theorem evalStages_split {fs : List Focus} {n : Nat} {f : Focus} (h : fs[n]? = some f) (s : State) :
    evalStages fs s =
      andThen (evalStage f ((fs.take n).foldl evalFocus s)) (evalStages (fs.drop (n + 1))) := by
  obtain ⟨hn, hf⟩ := List.getElem?_eq_some_iff.mp h
  have hfs : fs = fs.take n ++ f :: fs.drop (n + 1) := by
    rw [← hf, ← List.drop_eq_getElem_cons hn, List.take_append_drop]
  conv_lhs => rw [hfs]
  rw [evalStages_eq, List.foldl_append, ← evalStages_eq]
  rfl

/-- R170: stage evaluations leave the start-of-cycle state of every core as it is. -/
theorem kept_foldl_evalFocus (fs : List Focus) (s : State) (c : CoreId) :
    (s.core c).Kept ((fs.foldl evalFocus s).core c) := by
  have hkept (sts : List Stage) (k : Core) : k.Kept (sts.foldl (fun k st => evalStageCore st k) k) := by
    induction sts generalizing k with
    | nil => exact Core.Kept.refl k
    | cons st sts ih => exact (kept_evalStageCore st k).trans (ih _)
  rw [core_foldl_evalFocus]
  exact hkept _ _

theorem kept_beginCycle (s : State) (c : CoreId) : (s.core c).Kept ((beginCycle s).core c) := by
  rw [beginCycle, State.core_onEveryCore]
  exact kept_clearSignals _

/-- The evaluation of a stage whose word decodes is `exec` of the instruction. -/
theorem evalStage_of_decode {f : Focus} {s : State} {w : Word} {i : Instr}
    (hw : stageWord (s.core f.core) f.stage = some w) (hd : decode w = .ok i) :
    evalStage f s = exec i (s.withFocus f) := by
  simp only [evalStage, hw, hd]

/-- Settles O6: the stage evaluations before a stage leave its word as it was at the start of the cycle. -/
theorem stepRunsTheDecodedInstruction : Obligations.StepRunsTheDecodedInstruction := by
  intro s f w i hw hd
  obtain ⟨n, hn⟩ := exists_schedule_place f
  have hkept := (kept_beginCycle s f.core).trans (kept_foldl_evalFocus (schedule.take n) (beginCycle s) f.core)
  refine ⟨n, _, hn, evalStages_eq _ _, hkept.x, hkept.pc, ?_⟩
  have hexec := evalStage_of_decode ((hkept.stageWord f.stage).trans hw) hd
  rw [step, cycleStep, beforeEdge, evalStages_split hn, hexec, andThen_andThen, andThen_andThen]

/-! ## The decode stall signal (R180, R181) -/

/-- The stages before decode leave the `ID` slot alone, its stall flag included. -/
theorem slotID_before_decode (k : Core) :
    (evalStageCore .execute (evalStageCore .memory (evalStageCore .writeback k))).slotID = k.slotID := by
  obtain ⟨v, hx⟩ := evalStageCore_execute (evalStageCore .memory (evalStageCore .writeback k))
  rw [hx, evalStageCore_memory_frame, evalStageCore_writeback]
  rfl

/-- R180: decode raises the stall flag exactly with a hazard. -/
theorem decStall_evalStageCore_decode {k : Core} (h : k.slotID.stall = false) :
    (evalStageCore .decode k).slotID.stall = true ↔
      k.slotID.active = true ∧ hazard k (recordSrcs (decodeRecord k.slotID.raw)) = true := by
  rcases evalStageCore_decode k with ⟨ha, hz, e⟩ | ⟨hz, hacts⟩
  · simp [e, ha, hz]
  · have hstall : (evalStageCore .decode k).slotID.stall = false := by
      rcases hacts with ⟨-, -, -, _, _, e⟩ | ⟨-, -, e⟩ | ⟨-, e⟩ <;> rw [e] <;> exact h
    rw [hstall]
    exact ⟨nofun, fun ⟨ha, hz'⟩ => absurd ((hz ha).symm.trans hz') nofun⟩

/-- Fetch leaves the `ID` slot alone. -/
theorem slotID_evalStageCore_fetch (k : Core) : (evalStageCore .fetch k).slotID = k.slotID := by
  rw [evalStageCore_fetch]
  rcases fetchStage_cases k with ⟨-, e⟩ | ⟨-, e⟩ <;> rw [e]

/-- R180, R181: the stall flag of decode after the evaluation of a core, on the core at the start of the cycle. -/
theorem decStall_evalCore {k : Core} (h : k.slotID.stall = false) :
    (evalCore k).slotID.stall = true ↔
      k.slotID.active = true ∧ hazard k (recordSrcs (decodeRecord k.slotID.raw)) = true := by
  have hID := slotID_before_decode k
  have hkept := ((kept_evalStageCore .writeback k).trans (kept_evalStageCore .memory _)).trans
    (kept_evalStageCore .execute _)
  rw [evalCore, slotID_evalStageCore_fetch, decStall_evalStageCore_decode (by rw [hID, h]), hID, hkept.hazard]

/-- Settles O20: the evaluation of every core starts with the stall flags clear. -/
theorem decodeStallSignal : Obligations.DecodeStallSignal := by
  intro s u c h
  rw [evalStages_schedule] at h
  cases h
  rw [State.withFocus_core, State.core_onEveryCore, beginCycle, State.core_onEveryCore]
  exact decStall_evalCore rfl

end Sys2Proof.Proofs
end

section
/-!
What the memory stage makes of a mailbox and a cache that meet the invariant (44_pipeline.md rules R190 to R194,
46_mailbox.md rules R244, R245): a request waits, a completed request is served by its retry, a new access succeeds or
makes a request.
-/

namespace Sys2Proof.Proofs

open Sys2Proof Sys2Proof.Machine

/-! ## Lines that keep their ownership (R223) -/

/-- The line is as it was, or it was owned and became Modified: what a store may do to a line. -/
def LineUpgraded (l l' : TagState) : Prop := l' = l ∨ l.Owned ∧ l' = { l with state := .modified }

theorem lineUpgraded_tag {l l' : TagState} (h : LineUpgraded l l') : l'.tag = l.tag := by
  rcases h with rfl | ⟨-, rfl⟩ <;> rfl

theorem lineUpgraded_modified {l l' : TagState} (h : LineUpgraded l l') (hm : l.state = .modified) :
    l'.state = .modified := by
  rcases h with rfl | ⟨-, rfl⟩
  · exact hm
  · rfl

theorem lineUpgraded_shared {l l' : TagState} (h : LineUpgraded l l') (hs : l.state = .shared) : l' = l := by
  refine h.resolve_right fun ⟨ho, _⟩ => ?_
  rcases ho with hm | he
  · exact absurd (hs.symm.trans hm) nofun
  · exact absurd (hs.symm.trans he) nofun

/-- R223 (1): a write in place to an owned line upgrades that line. -/
theorem lineUpgraded_writeInPlace {ca : Cache} {a : Addr} (h : ca.ownsForWrite a = true) (v : Word) (i : LineIndex) :
    LineUpgraded (ca.line i) ((ca.writeInPlace a v).line i) := by
  rw [line_writeInPlace]
  split
  · rename_i hi
    subst hi
    exact .inr ⟨((ownsForWrite_iff ca a).mp h).2, rfl⟩
  · exact .inl rfl

/-! ## The access of the memory stage -/

/-- What the memory stage, from `k` to `m`, makes of a mailbox that meets the invariant: a completed request is
acknowledged; a request in the mailbox is that of the instruction in the memory stage, which stalls; a pending request
waits; no line is touched but by a store to it that its core owns. -/
structure Accessed (k m : Core) : Prop where
  done : m.mbox.done = false
  request : m.mbox.pending = true → m.slotMEM.stall = true ∧ m.RequestInv
  waits : k.mbox.pending = true → m.mbox = k.mbox ∧ m.cache = k.cache
  lines : ∀ i, LineUpgraded (k.cache.line i) (m.cache.line i)

/-- It is a statement about what the memory stage decides alone. -/
theorem accessed_of_sameAccess {k m e : Core} (h : Accessed k m) (he : m.SameAccess e) : Accessed k e := by
  obtain ⟨hcache, hmbox, hslot, -⟩ := he
  constructor
  · rw [hmbox]; exact h.done
  · rw [Core.RequestInv, hmbox, hslot]; exact h.request
  · rw [hmbox, hcache]; exact h.waits
  · rw [hcache]; exact h.lines

theorem accessed_loadStage {k : Core} (ha : k.slotMEM.active = true) (hop : (decodeRecord k.slotMEM.raw).op = 16)
    (hp : k.mbox.pending = false) : Accessed k (loadStage k) := by
  have hwaits (hp' : k.mbox.pending = true) : (loadStage k).mbox = k.mbox ∧ (loadStage k).cache = k.cache :=
    absurd (hp.symm.trans hp') nofun
  cases hh : k.cache.hit (addrOfWord k.slotMEM.result) with
  | true =>
    have e := loadStage_of_hit hp hh
    exact ⟨by rw [e], by rw [e]; exact fun hp' => absurd (hp.symm.trans hp') nofun, hwaits,
      by rw [e]; exact fun _ => .inl rfl⟩
  | false =>
    have e := loadStage_of_miss hp hh
    exact ⟨by rw [e], by rw [e]; exact fun _ => ⟨rfl, ha, rfl, .inl ⟨hop, rfl⟩⟩, hwaits,
      by rw [e]; exact fun _ => .inl rfl⟩

theorem accessed_storeStage {k : Core} (v : Word) (ha : k.slotMEM.active = true)
    (hop : (decodeRecord k.slotMEM.raw).op = 17) (hp : k.mbox.pending = false) : Accessed k (storeStage v k) := by
  have hwaits (hp' : k.mbox.pending = true) : (storeStage v k).mbox = k.mbox ∧ (storeStage v k).cache = k.cache :=
    absurd (hp.symm.trans hp') nofun
  cases hw : k.cache.ownsForWrite (addrOfWord k.slotMEM.result) with
  | true =>
    have e := storeStage_of_owned v hp hw
    exact ⟨by rw [e], by rw [e]; exact fun hp' => absurd (hp.symm.trans hp') nofun, hwaits,
      by rw [e]; exact lineUpgraded_writeInPlace hw v⟩
  | false =>
    have e := storeStage_of_not_owned v hp hw
    exact ⟨by rw [e], by rw [e]; exact fun _ => ⟨rfl, ha, rfl, .inr ⟨hop, rfl⟩⟩, hwaits,
      by rw [e]; exact fun _ => .inl rfl⟩

/-- R192: while its request is pending the instruction in the memory stage only stalls. -/
theorem evalStageCore_memory_pending {k : Core} (hp : k.mbox.pending = true) (hr : k.RequestInv) :
    evalStageCore .memory k = k.setMemStall true := by
  obtain ⟨ha, -, ⟨h16, -⟩ | ⟨h17, -⟩⟩ := hr
  · rw [evalStageCore_memory, if_pos ⟨ha, h16⟩, loadStage_pending hp]
  · have h16 : (decodeRecord k.slotMEM.raw).op ≠ 16 := by rw [h17]; decide
    rw [evalStageCore_memory, if_neg fun h => h16 h.2, if_pos ⟨ha, h17⟩, storeStage_pending _ hp]

/-- R193: a memory stage that holds no load and no store finds the mailbox empty and passes. -/
theorem accessed_passMemory {k : Core} (hp : k.mbox.pending = false) (hd : k.mbox.done = false) :
    Accessed k (passMemory k) where
  done := hd
  request hp' := absurd (hp.symm.trans hp') nofun
  waits _ := ⟨rfl, rfl⟩
  lines _ := .inl rfl

/-- R190 to R194: the memory stage of a core whose mailbox meets the invariant. -/
theorem accessed_memory {c : CoreId} {k : Core} (h : k.MailboxInv c) : Accessed k (evalStageCore .memory k) := by
  obtain ⟨-, hboth, hreq, -⟩ := h
  cases hp : k.mbox.pending with
  | true =>
    have hr := hreq (.inl hp)
    have hd : k.mbox.done = false := Bool.eq_false_iff.mpr fun hd => hboth ⟨hp, hd⟩
    rw [evalStageCore_memory_pending hp hr]
    exact ⟨hd, fun _ => ⟨rfl, hr⟩, fun _ => ⟨rfl, rfl⟩, fun _ => .inl rfl⟩
  | false =>
    rw [evalStageCore_memory]
    split
    · rename_i h16
      exact accessed_loadStage h16.1 h16.2 hp
    · rename_i h16
      split
      · rename_i h17
        exact accessed_storeStage _ h17.1 h17.2 hp
      · rename_i h17
        refine accessed_passMemory hp (Bool.eq_false_iff.mpr fun hd => ?_)
        obtain ⟨ha, -, ⟨hop, -⟩ | ⟨hop, -⟩⟩ := hreq (.inr hd)
        · exact h16 ⟨ha, hop⟩
        · exact h17 ⟨ha, hop⟩

/-- R190 to R194: what the evaluation of a core decides of its mailbox and its cache. -/
theorem accessed_evaluated {c : CoreId} {k e : Core} (h : k.MailboxInv c) (hev : k.Evaluated e) : Accessed k e :=
  accessed_of_sameAccess (accessed_memory h) hev.access

/-! ## The retry (R190, R191, R194) -/

/-- R223 (1): a hit on a Modified line can be written in place. -/
theorem ownsForWrite_of_hit {ca : Cache} {a : Addr} (hh : ca.hit a = true)
    (hm : (ca.line (addrIndex a)).state = .modified) : ca.ownsForWrite a = true :=
  (ownsForWrite_iff ca a).mpr ⟨((hit_iff ca a).mp hh).2, .inl hm⟩

/-- R190, R191, R244: the retry of a completed request acknowledges it, does not stall and counts nothing. -/
theorem evalStageCore_memory_retry {c : CoreId} {k : Core} (h : k.MailboxInv c) (hd : k.mbox.done = true) :
    (evalStageCore .memory k).mbox = k.mbox.acknowledge ∧ (evalStageCore .memory k).slotMEM = k.slotMEM ∧
      (evalStageCore .memory k).counters = k.counters := by
  obtain ⟨-, hboth, hreq, hdone⟩ := h
  obtain ⟨hhit, hmod⟩ := hdone hd
  obtain ⟨ha, haddr, hcmd⟩ := hreq (.inr hd)
  have hp : k.mbox.pending = false := Bool.eq_false_iff.mpr fun hp => hboth ⟨hp, hd⟩
  rw [haddr] at hhit hmod
  rcases hcmd with ⟨h16, -⟩ | ⟨h17, hrx⟩
  · rw [evalStageCore_memory, if_pos ⟨ha, h16⟩, loadStage_of_hit hp hhit, hd]
    exact ⟨rfl, rfl, rfl⟩
  · have h16 : (decodeRecord k.slotMEM.raw).op ≠ 16 := by rw [h17]; decide
    rw [evalStageCore_memory, if_neg fun h => h16 h.2, if_pos ⟨ha, h17⟩,
      storeStage_of_owned _ hp (ownsForWrite_of_hit hhit (hmod hrx)), hd]
    exact ⟨rfl, rfl, rfl⟩

end Sys2Proof.Proofs
end

section
/-!
How a step moves the instructions of one core, and that it keeps the order of the pipeline around a redirect and a
`halt` (44_pipeline.md rules R200 to R207).
-/

namespace Sys2Proof.Proofs

open Sys2Proof Sys2Proof.Machine

/-! ## Instructions on the move (R200 to R203) -/

/-- The clock edge neither reads nor writes the cache and the mailbox (R200 to R206). -/
theorem clockEdge_with_cacheMailbox (e : Core) (ca : Cache) (mb : Mailbox) :
    clockEdge { e with cache := ca, mbox := mb } = { clockEdge e with cache := ca, mbox := mb } := by
  have hslots : edgeSlots (edgeCounters { e with cache := ca, mbox := mb }) =
      { edgeSlots (edgeCounters e) with cache := ca, mbox := mb } := by
    cases hm : e.slotMEM.stall
    · cases hd : e.slotID.stall <;> simp [edgeSlots, edgeCounters, hm, hd]
    · simp [edgeSlots, edgeCounters, hm]
  rw [clockEdge, hslots]
  rfl

/-- `S'` holds the instruction that `S` held, or a bubble as `S` did. -/
def Carried (S S' : Slot) : Prop := S'.active = S.active ∧ (S.active = true → S'.raw = S.raw)

theorem carried_advance (S : Slot) (v : Word) : Carried S (S.advance v) := by
  cases ha : S.active with
  | true => rw [advance_active ha]; exact ⟨rfl, fun _ => rfl⟩
  | false => rw [advance_inactive ha]; exact ⟨ha.symm, fun h => absurd (ha.symm.trans h) nofun⟩

theorem Carried.inactive {S S' : Slot} (h : Carried S S') (hi : S.active = false) : S'.active = false := h.1.trans hi

theorem Carried.holdsOp {S S' : Slot} (h : Carried S S') {n : BitVec 8} (hn : S'.holdsOp n) : S.holdsOp n := by
  obtain ⟨ha, hop⟩ := hn
  have ha := h.1.symm.trans ha
  exact ⟨ha, by rw [← h.2 ha]; exact hop⟩

theorem Carried.holdsJump {S S' : Slot} (h : Carried S S') (hj : S.holdsJump) : S'.holdsJump := by
  obtain ⟨ha, hop⟩ := hj
  exact ⟨h.1.trans ha, by rw [h.2 ha]; exact hop⟩

theorem not_holdsOp_of_inactive {S : Slot} (h : S.active = false) {n : BitVec 8} : ¬ S.holdsOp n :=
  fun hn => absurd (h.symm.trans hn.1) nofun

/-- How the instructions of a core move at the edge, from the core `k` at the start of the cycle to `k'` at the start of
the next, by the stall flags of the evaluated core `e`. -/
inductive Moves (k e k' : Core) : Prop where
  /-- R200: memory is stalled. -/
  | memStalled (hm : e.slotMEM.stall = true) (id : Carried k.slotID k'.slotID) (ex : Carried k.slotEX k'.slotEX)
      (mem : Carried k.slotMEM k'.slotMEM) (wb : k'.slotWB.active = false)
  /-- R202: decode is stalled, memory is not. -/
  | decStalled (hd : e.slotID.stall = true) (id : Carried k.slotID k'.slotID) (ex : k'.slotEX.active = false)
      (mem : Carried k.slotEX k'.slotMEM) (wb : Carried k.slotMEM k'.slotWB)
  /-- R203: nothing is stalled; decode takes what was fetched. -/
  | unstalled (hm : e.slotMEM.stall = false) (hd : e.slotID.stall = false) (id : k'.slotID.active = e.sig.fetchEn)
      (ex : Carried k.slotID k'.slotEX) (mem : Carried k.slotEX k'.slotMEM) (wb : Carried k.slotMEM k'.slotWB)

/-- R195: a fetch fills the `IF` slot; without one it stays the bubble it was. -/
theorem evaluated_slotIF_active {k e : Core} (hev : k.Evaluated e) (hIF : k.slotIF = Slot.bubble) :
    e.slotIF.active = e.sig.fetchEn := by
  rw [hev.slotIF, hIF]
  cases e.sig.fetchEn <;> rfl

/-- R200 to R203: the edge moves the instructions of an evaluated core. -/
theorem moves_clockEdge {k e : Core} (hev : k.Evaluated e) (hIF : k.slotIF = Slot.bubble) :
    Moves k e (clockEdge e) := by
  have hID : Carried k.slotID e.slotID := ⟨hev.kept.idActive, fun _ => hev.kept.idRaw⟩
  have hMEM : Carried k.slotMEM e.slotMEM := ⟨hev.kept.memActive, fun _ => hev.kept.memRaw⟩
  have hWB : Carried k.slotMEM (e.slotMEM.advance e.sig.memResult) := by
    rw [advance_congr hev.kept.memActive hev.kept.memPc hev.kept.memRaw]
    exact carried_advance ..
  have hMEM' : Carried k.slotEX (e.slotEX.advance e.sig.exResult) := by
    rw [hev.kept.ex]
    exact carried_advance ..
  have hEX : Carried k.slotID (e.slotID.advance 0) := by
    rw [advance_congr hev.kept.idActive hev.kept.idPc hev.kept.idRaw]
    exact carried_advance ..
  cases hm : e.slotMEM.stall with
  | true =>
    obtain ⟨wb, mem, ex, id, -⟩ := edgeWithMemoryStalled e hm
    refine .memStalled hm ?_ ?_ ?_ ?_
    · rw [id]; exact hID
    · rw [ex, hev.kept.ex]; exact ⟨rfl, fun _ => rfl⟩
    · rw [mem]; exact hMEM
    · rw [wb]; rfl
  | false =>
    have mem := clockEdge_slotMEM hm
    have wb := clockEdge_slotWB hm
    cases hd : e.slotID.stall with
    | true =>
      obtain ⟨ex, id, -⟩ := clockEdge_slotEX_decStalled hm hd
      refine .decStalled hd ?_ ?_ ?_ ?_
      · rw [id]; exact hID
      · rw [ex]; rfl
      · rw [mem]; exact hMEM'
      · rw [wb]; exact hWB
    | false =>
      refine .unstalled hm hd ?_ ?_ ?_ ?_
      · rw [clockEdge_slotID hm hd]; exact evaluated_slotIF_active hev hIF
      · rw [clockEdge_slotEX hm hd]; exact hEX
      · rw [mem]; exact hMEM'
      · rw [wb]; exact hWB

/-! ## Quiet wires and the hardwired zero (R21, R31, R204) -/

/-- R195: a stalled core fetches nothing. -/
theorem fetchEn_of_stalled {k e : Core} (hev : k.Evaluated e) (h : e.slotMEM.stall = true ∨ e.slotID.stall = true) :
    e.sig.fetchEn = false := by
  rw [hev.fetchEn]
  rcases h with h | h <;> simp [h]

/-- R207 (a): `IF` is a bubble again after the edge. -/
theorem slotIF_clockEdge {k e : Core} (hev : k.Evaluated e) (hIF : k.slotIF = Slot.bubble) :
    (clockEdge e).slotIF = Slot.bubble := by
  have hbubble (hs : e.slotMEM.stall = true ∨ e.slotID.stall = true) : e.slotIF = Slot.bubble := by
    rw [hev.slotIF, fetchEn_of_stalled hev hs]
    exact hIF
  cases hm : e.slotMEM.stall with
  | true =>
    obtain ⟨-, -, -, -, hslot, -⟩ := edgeWithMemoryStalled e hm
    rw [hslot]
    exact hbubble (.inl hm)
  | false =>
    cases hd : e.slotID.stall with
    | true =>
      obtain ⟨-, -, hslot⟩ := clockEdge_slotEX_decStalled hm hd
      rw [hslot]
      exact hbubble (.inr hd)
    | false => exact clockEdge_slotIF_unstalled hm hd

/-- R173, R196: the latched write is never to register 0. -/
theorem evaluated_wrDest_ne_zero {k e : Core} (hev : k.Evaluated e) (hp : e.wrPending = true) : e.wrDest ≠ 0 := by
  obtain ⟨hdest, -⟩ := evaluated_write hev hp rfl
  obtain ⟨-, hrec⟩ := (slotDest_eq_some_iff _ _).mp hdest
  exact ((recordDest_eq_some_iff _ _).mp hrec).1

theorem zero_clockEdge {k e : Core} (hev : k.Evaluated e) : (clockEdge e).x[0] = 0 := by
  have hno : ¬ (e.wrPending = true ∧ (0 : RegNum) = e.wrDest) := fun h => evaluated_wrDest_ne_zero hev h.1 h.2.symm
  exact (getElem_clockEdge_x e 0).trans ((if_neg hno).trans (if_pos rfl))

/-! ## A redirect belongs to the branch or jump in decode (R207 (b)) -/

/-- What the latches of a `halt` are after the edge (R205). -/
structure Latched (k e k' : Core) : Prop where
  stopFetch : k'.stopFetch = (k.stopFetch || e.sig.haltNow)
  halted : k'.halted = (k.halted || e.sig.haltWb)

theorem latched_clockEdge {k e : Core} (hev : k.Evaluated e) : Latched k e (clockEdge e) where
  stopFetch := by rw [clockEdge_stopFetch, hev.kept.stopFetch]
  halted := by rw [clockEdge_halted_eq, hev.kept.halted]

section Edge

variable {k e k' : Core}

/-- R185, R207 (c): if fetch is stopped after the edge, what decode held at the start of the cycle is a `halt`. -/
theorem holdsHalt_of_stopFetch (hev : k.Evaluated e) (hk : k.HaltInv) (hl : Latched k e k')
    (hs : k'.stopFetch = true) (ha : k.slotID.active = true) : k.slotID.holdsHalt := by
  obtain ⟨hstop, -⟩ := hk
  rw [hl.stopFetch, Bool.or_eq_true] at hs
  rcases hs with hs | hn
  · exact hstop hs ha
  · obtain ⟨-, -, h20⟩ := hev.haltNow.mp hn
    exact ⟨ha, h20⟩

/-- R195: an unstalled core fetches unless fetch is to be stopped. -/
theorem fetchEn_of_unstalled (hev : k.Evaluated e) (hk : k.HaltInv) (hl : Latched k e k')
    (hm : e.slotMEM.stall = false) (hd : e.slotID.stall = false) : e.sig.fetchEn = !k'.stopFetch := by
  obtain ⟨-, -, -, -, hhalted⟩ := hk
  rw [hev.fetchEn, hl.stopFetch, hm, hd]
  cases hh : k.halted with
  | true =>
    obtain ⟨hs, -⟩ := hhalted hh
    simp [hs]
  | false => simp

/-- R207 (b): a redirect that fetch leaves pending belongs to the branch or jump that stays in decode. -/
theorem redirectInv_of_moves (hev : k.Evaluated e) (hk : k.HaltInv) (hr : k.RedirectInv) (hm : Moves k e k')
    (hl : Latched k e k') (hp : k'.redirectPending = e.sig.redirectPendingNext) : k'.RedirectInv := by
  intro hpend
  rw [hp, hev.redirectPendingNext] at hpend
  have hfetch : e.sig.fetchEn = false := by
    cases hf : e.sig.fetchEn with
    | true => rw [hf] at hpend; exact absurd hpend nofun
    | false => rfl
  have hjump : k.slotID.holdsJump := by
    rw [hfetch] at hpend
    rcases Bool.or_eq_true_iff.mp hpend with h | h
    · exact hr h
    · exact hev.redirNow h
  cases hm with
  | memStalled _ id _ _ _ => exact id.holdsJump hjump
  | decStalled _ id _ _ _ => exact id.holdsJump hjump
  | unstalled hm hd _ _ _ _ =>
    rw [fetchEn_of_unstalled hev hk hl hm hd, Bool.not_eq_false'] at hfetch
    obtain ⟨ha, h9, h15⟩ := hjump
    obtain ⟨-, h20⟩ := holdsHalt_of_stopFetch hev hk hl hfetch ha
    rw [h20] at h15
    exact absurd h15 (by decide)

/-! ## Nothing younger than a `halt` (R207 (c), (d), (e)) -/

/-- R196, R207 (e): a core halted after the edge had nothing in front of writeback. -/
theorem drained_of_halted (hev : k.Evaluated e) (hk : k.HaltInv) (hl : Latched k e k') (hh : k'.halted = true) :
    k.stopFetch = true ∧ k.slotID.active = false ∧ k.slotEX.active = false ∧ k.slotMEM.active = false := by
  obtain ⟨-, -, -, hwb, hhalted⟩ := hk
  rw [hl.halted, Bool.or_eq_true] at hh
  rcases hh with hh | hn
  · obtain ⟨hs, hD, hE, hM, -⟩ := hhalted hh
    exact ⟨hs, hD, hE, hM⟩
  · exact hwb (hev.haltWb.mp hn)

theorem stopFetch_stays (hl : Latched k e k') (h : k.stopFetch = true) : k'.stopFetch = true := by
  rw [hl.stopFetch, h]
  rfl

/-- R185: a `halt` that leaves decode has stopped fetch. -/
theorem stopFetch_of_halt_leaving (hev : k.Evaluated e) (hl : Latched k e k') (hd : e.slotID.stall = false)
    (h : k.slotID.holdsHalt) : k'.stopFetch = true := by
  have hz : hazard k (recordSrcs (decodeRecord k.slotID.raw)) = false :=
    Bool.eq_false_iff.mpr fun hz => absurd (hd.symm.trans (hev.decStall.mpr ⟨h.1, hz⟩)) nofun
  rw [hl.stopFetch, hev.haltNow.mpr ⟨h.1, hz, h.2⟩, Bool.or_true]

/-- R207 (c), (d), (e): the edge keeps the order around a `halt`, however the instructions move. -/
theorem haltInv_of_moves (hev : k.Evaluated e) (hk : k.HaltInv) (hm : Moves k e k') (hl : Latched k e k') :
    k'.HaltInv := by
  have ⟨_, hex, hmem, _, _⟩ := hk
  have hID := holdsHalt_of_stopFetch hev hk hl
  have hdrained := drained_of_halted hev hk hl
  have hstays := stopFetch_stays hl
  cases hm with
  | memStalled _ id ex mem wb =>
    refine ⟨fun hs ha => ?_, fun h => ?_, fun h => ?_, fun h => absurd h (not_holdsOp_of_inactive wb), fun h => ?_⟩
    · have ha := id.1.symm.trans ha
      obtain ⟨-, h20⟩ := hID hs ha
      exact ⟨id.1.trans ha, by rw [id.2 ha]; exact h20⟩
    · obtain ⟨hs, hD⟩ := hex (ex.holdsOp h)
      exact ⟨hstays hs, id.inactive hD⟩
    · obtain ⟨hs, hD, hE⟩ := hmem (mem.holdsOp h)
      exact ⟨hstays hs, id.inactive hD, ex.inactive hE⟩
    · obtain ⟨hs, hD, hE, hM⟩ := hdrained h
      exact ⟨hstays hs, id.inactive hD, ex.inactive hE, mem.inactive hM, wb⟩
  | decStalled _ id ex mem wb =>
    refine ⟨fun hs ha => ?_, fun h => absurd h (not_holdsOp_of_inactive ex), fun h => ?_, fun h => ?_, fun h => ?_⟩
    · have ha := id.1.symm.trans ha
      obtain ⟨-, h20⟩ := hID hs ha
      exact ⟨id.1.trans ha, by rw [id.2 ha]; exact h20⟩
    · obtain ⟨hs, hD⟩ := hex (mem.holdsOp h)
      exact ⟨hstays hs, id.inactive hD, ex⟩
    · obtain ⟨hs, hD, hE⟩ := hmem (wb.holdsOp h)
      exact ⟨hstays hs, id.inactive hD, ex, mem.inactive hE⟩
    · obtain ⟨hs, hD, hE, hM⟩ := hdrained h
      exact ⟨hstays hs, id.inactive hD, ex, mem.inactive hE, wb.inactive hM⟩
  | unstalled hm hd id ex mem wb =>
    have hD' (hs : k'.stopFetch = true) : k'.slotID.active = false := by
      rw [id, fetchEn_of_unstalled hev hk hl hm hd, hs]
      rfl
    refine ⟨fun hs ha => absurd ((hD' hs).symm.trans ha) nofun, fun h => ?_, fun h => ?_, fun h => ?_, fun h => ?_⟩
    · have hs := stopFetch_of_halt_leaving hev hl hd (ex.holdsOp h)
      exact ⟨hs, hD' hs⟩
    · obtain ⟨hs, hD⟩ := hex (mem.holdsOp h)
      exact ⟨hstays hs, hD' (hstays hs), ex.inactive hD⟩
    · obtain ⟨hs, hD, hE⟩ := hmem (wb.holdsOp h)
      exact ⟨hstays hs, hD' (hstays hs), ex.inactive hD, mem.inactive hE⟩
    · obtain ⟨hs, hD, hE, hM⟩ := hdrained h
      exact ⟨hstays hs, hD' (hstays hs), ex.inactive hD, mem.inactive hE, wb.inactive hM⟩

end Edge

/-- R207: a step keeps the order of one core's pipeline. -/
theorem step_keeps_pipeline {s t : State} {c : CoreId} (hinv : (s.core c).Inv c) (h : step s = .next t) :
    (t.core c).Quiet ∧ (t.core c).x[0] = 0 ∧ (t.core c).RedirectInv ∧ (t.core c).HaltInv := by
  obtain ⟨hIF, hw, -, -, -⟩ := hinv.quiet
  obtain ⟨e, ca, mb, hev, ht⟩ := step_evaluated h hw
  have hm := moves_clockEdge hev hIF
  have hl := latched_clockEdge hev
  obtain ⟨hp, -⟩ := clockEdge_redirect e
  have hredirect : (clockEdge e).RedirectInv := redirectInv_of_moves hev hinv.halt hinv.redirect hm hl hp
  have hhalt : (clockEdge e).HaltInv := haltInv_of_moves hev hinv.halt hm hl
  rw [ht, clockEdge_with_cacheMailbox]
  exact ⟨⟨slotIF_clockEdge hev hIF, rfl, rfl, rfl, rfl⟩, zero_clockEdge hev, hredirect, hhalt⟩

end Sys2Proof.Proofs
end

section
/-!
The invariants of the bus, the caches and the mailboxes (20_memory.md rule R72, 46_mailbox.md rule R245,
47_bus_controller.md rule R274) over one controller step.
-/

namespace Sys2Proof.Proofs

open Sys2Proof Sys2Proof.Machine

/-! ## What the invariants of the bus and the caches depend on -/

/-- The invariants about the bus and what the cores hold of the blocks: all of `State.Inv` that a controller step can
affect but for the mailboxes and the memory. -/
structure SharedInv (s : State) : Prop where
  bus : s.bus.Inv
  fill : s.FillInv
  flush : s.FlushInv
  serves : s.ServesSomeone
  coherent : s.Coherent

/-- R221: a cache holds a block by the line the block maps to. -/
theorem holds_iff (s : State) (c : CoreId) (a : Addr) :
    (s.core c).cache.holds a = true ↔
      (s.line c (addrIndex a)).state ≠ .invalid ∧ (s.line c (addrIndex a)).tag = addrTag a :=
  hit_iff (s.core c).cache a

/-- The line `l'` claims no more than `l`: the tag stays, ownership is not gained, and what is Invalid stays so. Stores,
snoops and flushes do no more to a line. -/
structure Tamer (l l' : TagState) : Prop where
  tag : l'.tag = l.tag
  owned : l'.Owned → l.Owned
  invalid : l.state = .invalid → l'.state = .invalid

theorem Tamer.refl (l : TagState) : Tamer l l := ⟨rfl, id, id⟩

theorem Tamer.trans {a b c : TagState} (h : Tamer a b) (g : Tamer b c) : Tamer a c :=
  ⟨g.tag.trans h.tag, fun ho => h.owned (g.owned ho), fun hi => g.invalid (h.invalid hi)⟩

theorem tamer_of_upgraded {l l' : TagState} (h : LineUpgraded l l') : Tamer l l' := by
  rcases h with rfl | ⟨ho, rfl⟩
  · exact Tamer.refl l'
  · refine ⟨rfl, fun _ => ho, fun hi => ?_⟩
    rcases ho with hm | he
    · exact absurd (hi.symm.trans hm) nofun
    · exact absurd (hi.symm.trans he) nofun

/-- A valid line tamed to `Shared` or `Invalid`. -/
theorem tamer_downgrade {l : TagState} {m : Mesi} (hv : l.state ≠ .invalid) (hm : m = .shared ∨ m = .invalid) :
    Tamer l { l with state := m } := by
  refine ⟨rfl, fun ho => ?_, fun hi => absurd hi hv⟩
  rcases hm with rfl | rfl <;> rcases ho with ho | ho <;> exact absurd ho nofun

/-- R72: coherence survives lines that claim no more. -/
theorem coherent_of_tamer {s t : State} (h : s.Coherent) (hl : ∀ c i, Tamer (s.line c i) (t.line c i)) :
    t.Coherent := by
  intro c d hcd i ho
  rw [(hl c i).tag, (hl d i).tag]
  exact (h c d hcd i ((hl c i).owned ho)).imp_left (hl d i).invalid

/-- A tamer line that is still valid was a holder before. -/
theorem holds_of_tamer {s t : State} {c : CoreId} {a : Addr}
    (hl : Tamer (s.line c (addrIndex a)) (t.line c (addrIndex a))) (h : (t.core c).cache.holds a = true) :
    (s.core c).cache.holds a = true := by
  obtain ⟨hv, ht⟩ := (holds_iff t c a).mp h
  exact (holds_iff s c a).mpr ⟨fun hi => hv (hl.invalid hi), hl.tag.symm.trans ht⟩

/-- With the bus free only the bus record and coherence are left to show. -/
theorem sharedInv_of_free {t : State} (hb : t.bus.busy = false) (hbus : t.bus.Inv) (hc : t.Coherent) : SharedInv t where
  bus := hbus
  fill h := absurd (hb.symm.trans h) nofun
  flush h := absurd (hb.symm.trans h) nofun
  serves h := absurd (hb.symm.trans h) nofun
  coherent := hc

/-- The invariants read the lines, the mailboxes and, of the bus, all but data, cooldown and cursor. -/
theorem SharedInv.congr {s t : State} (h : SharedInv s) (hl : ∀ c i, t.line c i = s.line c i)
    (hm : ∀ c, (t.core c).mbox = (s.core c).mbox)
    (hb : t.bus = { s.bus with data := t.bus.data, cooldown := t.bus.cooldown, cursor := t.bus.cursor })
    (hbus : t.bus.Inv) : SharedInv t := by
  have hbusy : t.bus.busy = s.bus.busy := by rw [hb]
  have hcmd : t.bus.cmd = s.bus.cmd := by rw [hb]
  have haddr : t.bus.addr = s.bus.addr := by rw [hb]
  have horig : t.bus.origid = s.bus.origid := by rw [hb]
  have hshared : t.bus.shared = s.bus.shared := by rw [hb]
  refine ⟨hbus, ?_, ?_, ?_, ?_⟩
  · simp only [State.FillInv, holds_iff, mustEvict, hbusy, hcmd, haddr, horig, hshared, hm, hl]
    simpa only [State.FillInv, holds_iff, mustEvict] using h.fill
  · simp only [State.FlushInv, hbusy, hcmd, haddr, horig, hl]
    exact h.flush
  · simp only [State.ServesSomeone, hbusy, hm]
    exact h.serves
  · simp only [State.Coherent, hl]
    exact h.coherent

/-! ## The snoop scan (R260 to R264) -/

/-- What a scan for requester `r` does to the cores: it tames lines of the others. -/
structure Snooped (r : CoreId) (s t : State) : Prop where
  mbox c : (t.core c).mbox = (s.core c).mbox
  lines c i : Tamer (s.line c i) (t.line c i)
  requester : t.core r = s.core r

theorem snooped_onBus (r : CoreId) (s : State) (f : Bus → Bus) : Snooped r s (s.onBus f) :=
  ⟨fun _ => rfl, fun _ _ => Tamer.refl _, rfl⟩

theorem Snooped.trans {r : CoreId} {a b c : State} (h : Snooped r a b) (g : Snooped r b c) : Snooped r a c :=
  ⟨fun d => (g.mbox d).trans (h.mbox d), fun d i => (h.lines d i).trans (g.lines d i), g.requester.trans h.requester⟩

theorem line_setLineState (s : State) (o c : CoreId) (i j : LineIndex) (m : Mesi) :
    (s.setLineState o i m).line c j = if c = o ∧ j = i then { s.line o i with state := m } else s.line c j := by
  rw [State.line, State.setLineState, State.core_onCore]
  by_cases hc : c = o
  · subst hc
    rw [if_pos rfl]
    by_cases hj : j = i
    · subst hj
      rw [if_pos ⟨rfl, rfl⟩]
      exact Cache.line_setLine_same ..
    · rw [if_neg fun h => hj h.2]
      exact Cache.line_setLine_other _ _ hj
  · rw [if_neg hc, if_neg fun h => hc h.1]
    rfl

theorem mbox_setLineState (s : State) (o c : CoreId) (i : LineIndex) (m : Mesi) :
    ((s.setLineState o i m).core c).mbox = (s.core c).mbox := by
  rw [State.setLineState, State.core_onCore]
  split
  · rename_i h
    rw [h]
  · rfl

/-- R262, R263: the scan's change to one valid line of another core. -/
theorem snooped_setLineState {r o : CoreId} (ho : o ≠ r) (s : State) {i : LineIndex}
    (hv : (s.line o i).state ≠ .invalid) {m : Mesi} (hm : m = .shared ∨ m = .invalid) :
    Snooped r s (s.setLineState o i m) where
  mbox c := mbox_setLineState s o c i m
  lines c j := by
    rw [line_setLineState]
    split
    · rename_i h
      obtain ⟨rfl, rfl⟩ := h
      exact tamer_downgrade hv hm
    · exact Tamer.refl _
  requester := State.core_onCore_other _ _ _ _ ho.symm

theorem snoopedState_cases (k : BusCmd) : snoopedState k = .shared ∨ snoopedState k = .invalid := by
  rw [snoopedState]
  split
  · exact .inl rfl
  · exact .inr rfl

/-- The other holders of a granted block: none but Shared ones under a Read with the shared signal (R262 to R264). -/
def HoldersShared (r : CoreId) (k : BusCmd) (a : Addr) (os : List CoreId) (t : State) : Prop :=
  ∀ o ∈ os, o ≠ r → (t.core o).cache.holds a = true →
    k = .read ∧ t.bus.shared = true ∧ (t.line o (addrIndex a)).state = .shared

/-- How a scan ends: with the flush of a Modified line of the block, or with the grant. -/
inductive ScanEnd (r : CoreId) (k : BusCmd) (a : Addr) (os : List CoreId) (b : Bus) (t : State) : Prop where
  | flush (o : CoreId) (sh : Bool)
      (bus : t.bus = ({ b with shared := sh } : Bus).startFlush o (blockBase a) (postFlushOf k))
      (modified : (t.line o (addrIndex a)).state = .modified) (tag : (t.line o (addrIndex a)).tag = addrTag a)
  | grant (sh : Bool) (keeps : b.shared = true → sh = true) (bus : t.bus = ({ b with shared := sh } : Bus).grant k a r)
      (holders : HoldersShared r k a os t)

/-- A line that the scan made the snooped state is no holder at the grant, or a Shared one under a Read. -/
theorem holderShared_of_snooped {s t : State} {o : CoreId} {k : BusCmd} {a : Addr}
    (hs : (s.line o (addrIndex a)).state = snoopedState k)
    (hl : Tamer (s.line o (addrIndex a)) (t.line o (addrIndex a)))
    (hh : (t.core o).cache.holds a = true) : k = .read ∧ (t.line o (addrIndex a)).state = .shared := by
  obtain ⟨hv, -⟩ := (holds_iff t o a).mp hh
  have hread : k = .read := by
    by_contra hk
    exact hv (hl.invalid (by rw [hs, snoopedState, if_neg hk]))
  have hshared : (s.line o (addrIndex a)).state = .shared := by rw [hs, snoopedState, if_pos hread]
  have hnot : ¬ (t.line o (addrIndex a)).Owned := fun ho => by
    rcases hl.owned ho with h | h <;> exact absurd (hshared.symm.trans h) nofun
  refine ⟨hread, ?_⟩
  cases hm : (t.line o (addrIndex a)).state with
  | shared => rfl
  | invalid => exact absurd hm hv
  | exclusive => exact absurd (.inr hm) hnot
  | modified => exact absurd (.inl hm) hnot

/-- The end of the scan of the remaining cores is the end of the whole scan, if the core scanned first may hold the
block then. -/
theorem ScanEnd.cons {r o : CoreId} {k : BusCmd} {a : Addr} {os : List CoreId} {b : Bus} {sh₀ : Bool} {t : State}
    (h : ScanEnd r k a os { b with shared := sh₀ } t) (hkeeps : b.shared = true → sh₀ = true)
    (ho : o ≠ r → (t.core o).cache.holds a = true →
      k = .read ∧ sh₀ = true ∧ (t.line o (addrIndex a)).state = .shared) : ScanEnd r k a (o :: os) b t := by
  cases h with
  | flush p sh bus modified tag => exact .flush p sh bus modified tag
  | grant sh keeps bus holders =>
    refine .grant sh (fun hb => keeps (hkeeps hb)) bus fun p hp hpr hh => ?_
    rcases List.mem_cons.mp hp with rfl | hp
    · obtain ⟨hread, hsh, hstate⟩ := ho hpr hh
      exact ⟨hread, by rw [bus]; exact keeps hsh, hstate⟩
    · exact holders p hp hpr hh

/-- R260 to R264: what a scan over the listed cores does, and how it ends. -/
theorem snoopScan_spec (r : CoreId) (k : BusCmd) (a : Addr) (os : List CoreId) (s : State) :
    Snooped r s (snoopScan r k a os s) ∧ ScanEnd r k a os s.bus (snoopScan r k a os s) := by
  induction os generalizing s with
  | nil => exact ⟨snooped_onBus r s _, .grant s.bus.shared id rfl nofun⟩
  | cons o os ih =>
    simp only [snoopScan]
    split
    · rename_i hor
      obtain ⟨hsn, hend⟩ := ih s
      exact ⟨hsn, hend.cons id fun hne => absurd hor hne⟩
    · rename_i hor
      split
      · rename_i hh
        obtain ⟨hv, htag⟩ := (holds_iff s o a).mp hh
        split
        · rename_i hmod
          exact ⟨(snooped_onBus r s _).trans (snooped_onBus r _ _), .flush o true rfl hmod htag⟩
        · have hset := (snooped_onBus r s _).trans
            (snooped_setLineState hor (s.onBus fun b => { b with shared := true }) hv (snoopedState_cases k))
          obtain ⟨hsn, hend⟩ :=
            ih ((s.onBus fun b => { b with shared := true }).setLineState o (addrIndex a) (snoopedState k))
          refine ⟨hset.trans hsn, hend.cons (fun _ => rfl) fun _ hoh => ?_⟩
          obtain ⟨hread, hshared⟩ := holderShared_of_snooped
            (by rw [line_setLineState, if_pos ⟨rfl, rfl⟩]) (hsn.lines o (addrIndex a)) hoh
          exact ⟨hread, rfl, hshared⟩
      · rename_i hh
        obtain ⟨hsn, hend⟩ := ih s
        exact ⟨hsn, hend.cons id fun _ hoh => absurd (holds_of_tamer (hsn.lines o (addrIndex a)) hoh) hh⟩

/-! ## The bus record (R47, R257, R264, R265, R271) -/

/-- R47: a free bus has no deferred state. -/
theorem postFlush_of_free {b : Bus} (h : b.Inv) (hb : b.busy = false) : b.postFlush = .invalid := by
  obtain ⟨-, -, -, -, -, hp⟩ := h
  exact hp.resolve_right fun hp => absurd (hb.symm.trans hp.2.1) nofun

theorem busInv_resetWires {b : Bus} (h : b.Inv) (hb : b.busy = false) : b.resetWires.Inv := by
  have hp := postFlush_of_free h hb
  obtain ⟨-, hidle, hcool, hcur, -, -⟩ := h
  exact ⟨fun hb' => absurd (hb.symm.trans hb') nofun, hidle, hcool, hcur, nofun, .inl hp⟩

theorem busInv_grant {b : Bus} (hp : b.postFlush = .invalid) {k : BusCmd} (hk : k = .read ∨ k = .readExclusive)
    (a : Addr) (r : CoreId) : (b.grant k a r).Inv := by
  refine ⟨fun _ => ?_, nofun, Nat.le_refl _, fun _ => rfl, fun hf => ?_, .inl hp⟩
  · rcases hk with rfl | rfl <;> nofun
  · rcases hk with rfl | rfl <;> exact absurd hf nofun

theorem busInv_startFlush (b : Bus) (o : CoreId) (f : Addr) {p : Mesi} (hp : p = .shared ∨ p = .invalid) :
    (b.startFlush o f p).Inv := by
  refine ⟨fun _ => nofun, nofun, Nat.zero_le _, fun _ => rfl, fun _ => rfl, ?_⟩
  exact hp.symm.imp id fun h => ⟨h, rfl, rfl⟩

theorem busInv_cooldown {b : Bus} (h : b.Inv) (hb : b.busy = true) (hc : 0 < b.cooldown) :
    ({ b with cooldown := b.cooldown - 1 } : Bus).Inv := by
  obtain ⟨hcmd, -, hcool, hcur, hflush, hpost⟩ := h
  refine ⟨hcmd, fun hb' => absurd (hb.symm.trans hb') nofun, ?_, fun _ => hcur hc, fun hf => ?_, hpost⟩
  · exact (Nat.sub_le ..).trans hcool
  · show b.cooldown - 1 = 0
    rw [hflush hf]

/-- A word moved: the cooldown is over, the transaction goes on. -/
theorem busInv_advanceCursor {b : Bus} (h : b.Inv) (hb : b.busy = true) (hc : b.cooldown = 0) (w : Word) :
    (b.advanceCursor w).Inv := by
  obtain ⟨hcmd, -, hcool, -, hflush, hpost⟩ := h
  exact ⟨hcmd, fun hb' => absurd (hb.symm.trans hb') nofun, hcool, fun hp => absurd hc (Nat.pos_iff_ne_zero.mp hp),
    hflush, hpost⟩

/-- R273: a transaction that ends leaves the cooldown at 0 and the cursor back at 0. -/
theorem busInv_finished {b : Bus} (hc : b.cooldown = 0) (hcur : b.cursor = 0) (hb : b.busy = false)
    (hp : b.postFlush = .invalid) : b.Inv :=
  ⟨fun hb' => absurd (hb.symm.trans hb') nofun, fun _ => ⟨hc, hcur⟩, hc ▸ Nat.zero_le _, fun _ => hcur, fun _ => hc,
    .inl hp⟩

/-! ## The idle step: serving a request (R257 to R265) -/

/-- A flush that starts keeps the invariants: the owner's line is the Modified block on the bus. -/
theorem sharedInv_of_startFlush {t : State} {b : Bus} {o : CoreId} {f : Addr} {p : Mesi}
    (hb : t.bus = b.startFlush o f p) (hp : p = .shared ∨ p = .invalid) (hbase : blockBase f = f)
    (hmod : (t.line o (addrIndex f)).state = .modified) (htag : (t.line o (addrIndex f)).tag = addrTag f)
    (hserves : ∃ c, (t.core c).mbox.pending = true) (hc : t.Coherent) : SharedInv t where
  bus := by rw [hb]; exact busInv_startFlush b o f hp
  fill := by
    rw [State.FillInv, hb]
    exact fun _ hk => by rcases hk with hk | hk <;> exact absurd hk nofun
  flush := by
    rw [State.FlushInv, hb]
    exact fun _ _ => ⟨hbase, hmod, htag⟩
  serves _ := hserves
  coherent := hc

/-- A request granted keeps the invariants: the scan left no other holder but Shared ones. -/
theorem sharedInv_of_grant {t : State} {b : Bus} {r : CoreId} {k : BusCmd} {a : Addr} (hb : t.bus = b.grant k a r)
    (hk : k = .read ∨ k = .readExclusive) (hpost : b.postFlush = .invalid) (hp : (t.core r).mbox.pending = true)
    (haddr : (t.core r).mbox.addr = a) (hcmd : (t.core r).mbox.cmd = k) (hev : mustEvict t r a = false)
    (hh : HoldersShared r k a allCores t) (hc : t.Coherent) : SharedInv t where
  bus := by rw [hb]; exact busInv_grant hpost hk a r
  fill := by
    rw [State.FillInv, hb]
    refine fun _ _ => ⟨hp, haddr, hcmd, hev, fun o ho hoh => ?_⟩
    obtain ⟨hread, hshared, hstate⟩ := hh o (List.mem_finRange o) ho hoh
    rw [hb] at hshared
    exact ⟨hread, hshared, hstate⟩
  flush := by
    rw [State.FlushInv, hb]
    exact fun _ hf => by rcases hk with rfl | rfl <;> exact absurd hf nofun
  serves _ := ⟨r, hp⟩
  coherent := hc

theorem postFlushOf_cases (k : BusCmd) : postFlushOf k = .shared ∨ postFlushOf k = .invalid := snoopedState_cases k

/-- R259: an eviction is needed by the requester's own line alone. -/
theorem mustEvict_congr {s t : State} {r : CoreId} {a : Addr}
    (h : t.line r (addrIndex a) = s.line r (addrIndex a)) : mustEvict t r a = mustEvict s r a := by
  rw [mustEvict, mustEvict, h]

/-- R259 to R265: serving a pending request keeps the invariants. -/
theorem sharedInv_serve {s : State} {r : CoreId} {k : BusCmd} {a : Addr} (hc : s.Coherent)
    (hpost : s.bus.postFlush = .invalid) (hk : k = .read ∨ k = .readExclusive) (hp : (s.core r).mbox.pending = true)
    (haddr : (s.core r).mbox.addr = a) (hcmd : (s.core r).mbox.cmd = k) : SharedInv (serve s r k a) := by
  rw [serve]
  split
  · rename_i hev
    obtain ⟨hmod, -⟩ := Bool.and_eq_true_iff.mp hev
    refine sharedInv_of_startFlush rfl (.inr rfl) (blockBase_wordAddr ..) ?_ ?_ ⟨r, hp⟩ hc
    · rw [addrIndex_wordAddr]
      exact of_decide_eq_true hmod
    · rw [addrIndex_wordAddr, addrTag_wordAddr]
      rfl
  · rename_i hev
    obtain ⟨hsn, hend⟩ := snoopScan_spec r k a allCores s
    have hcoh := coherent_of_tamer hc hsn.lines
    have hr := hsn.requester
    cases hend with
    | flush o sh bus modified tag =>
      refine sharedInv_of_startFlush bus (postFlushOf_cases k) (blockBase_blockBase a) ?_ ?_
        ⟨r, by rw [hr]; exact hp⟩ hcoh
      · rw [addrIndex_blockBase]; exact modified
      · rw [addrIndex_blockBase, addrTag_blockBase]; exact tag
    | grant sh keeps bus holders =>
      refine sharedInv_of_grant bus hk hpost (by rw [hr]; exact hp) (by rw [hr]; exact haddr)
        (by rw [hr]; exact hcmd) ?_ holders hcoh
      have hline : (snoopScan r k a allCores s).line r (addrIndex a) = s.line r (addrIndex a) :=
        congrArg (fun k : Core => k.cache.line (addrIndex a)) hr
      rw [mustEvict_congr hline]
      exact (Bool.not_eq_true _).mp hev

/-- R259 to R265: serving a request touches no mailbox. -/
theorem mbox_serve (s : State) (r : CoreId) (k : BusCmd) (a : Addr) (c : CoreId) :
    ((serve s r k a).core c).mbox = (s.core c).mbox := by
  rw [serve]
  split
  · rfl
  · exact (snoopScan_spec r k a allCores s).1.mbox c

/-- R257, R258: the idle step keeps the invariants. -/
theorem sharedInv_idleStep {s t : State} (h : SharedInv s) (hb : s.bus.busy = false) (hs : idleStep s = .next t) :
    SharedInv t := by
  have hpost := postFlush_of_free h.bus hb
  rcases idleStep_cases hs with ⟨-, rfl⟩ | ⟨r, hr, hk, rfl⟩
  · exact sharedInv_of_free hb (busInv_resetWires h.bus hb) h.coherent
  · exact sharedInv_serve h.coherent hpost hk (pending_of_arbitrate hr) rfl rfl

/-! ## The busy steps (R266 to R273) -/

/-- What an update of one core leaves alone there, it leaves alone everywhere. -/
theorem onCore_proj {α : Type} (g : Core → α) (s : State) (d c : CoreId) {f : Core → Core}
    (h : g (f (s.core d)) = g (s.core d)) : g ((s.onCore d f).core c) = g (s.core c) := by
  rw [State.core_onCore]
  split
  · rename_i e; rw [e, h]
  · rfl

/-- R267: a word of a fill changes no line and no mailbox. -/
theorem line_fillWord (s : State) (c : CoreId) (i : LineIndex) : (fillWord s).line c i = s.line c i := by
  rw [State.line, fillWord, State.onBus_core]
  exact onCore_proj (fun k => k.cache.line i) s s.bus.origid c (Cache.line_setWord ..)

theorem mbox_fillWord (s : State) (c : CoreId) : ((fillWord s).core c).mbox = (s.core c).mbox := by
  rw [fillWord, State.onBus_core]
  exact onCore_proj Core.mbox s s.bus.origid c (by rfl)

theorem sharedInv_cooldownStep {s : State} (h : SharedInv s) (hb : s.bus.busy = true) (hc : 0 < s.bus.cooldown) :
    SharedInv (cooldownStep s) :=
  h.congr (fun _ _ => rfl) (fun _ => rfl) rfl (busInv_cooldown h.bus hb hc)

theorem sharedInv_fillWord {s : State} (h : SharedInv s) (hb : s.bus.busy = true) (hc : s.bus.cooldown = 0) :
    SharedInv (fillWord s) :=
  h.congr (line_fillWord s) (mbox_fillWord s) rfl (busInv_advanceCursor h.bus hb hc _)

theorem sharedInv_flushWord {s : State} (h : SharedInv s) (hb : s.bus.busy = true) (hc : s.bus.cooldown = 0) :
    SharedInv (flushWord s) :=
  h.congr (fun _ _ => rfl) (fun _ => rfl) rfl (busInv_advanceCursor h.bus hb hc _)

/-- R269 to R271: the filled line takes the block's tag and its new state, no other line changes. -/
theorem line_finalizeFill (s : State) (m : Mesi) (c : CoreId) (i : LineIndex) :
    (finalizeFill s m).line c i =
      if c = s.bus.origid ∧ i = addrIndex s.bus.addr then { tag := addrTag s.bus.addr, state := m }
      else s.line c i := by
  rw [State.line, finalizeFill, State.onBus_core, State.core_onCore]
  by_cases hc : c = s.bus.origid
  · rw [if_pos hc]
    by_cases hi : i = addrIndex s.bus.addr
    · rw [if_pos ⟨hc, hi⟩, hi]
      exact Cache.line_setLine_same ..
    · rw [if_neg fun h => hi h.2, hc]
      exact Cache.line_setLine_other _ _ hi
  · rw [if_neg hc, if_neg fun h => hc h.1]
    rfl

/-- R72 (a): a block filled by core `r` stays coherent if the others hold it at most Shared, and not at all when `r`
comes to own it. -/
theorem coherent_fill {s t : State} {r : CoreId} {a : Addr} {m : Mesi} (h : s.Coherent)
    (hl : ∀ c i, t.line c i = if c = r ∧ i = addrIndex a then { tag := addrTag a, state := m } else s.line c i)
    (hh : ∀ o, o ≠ r → (s.core o).cache.holds a = true → m = .shared ∧ (s.line o (addrIndex a)).state = .shared) :
    t.Coherent := by
  have hnew : t.line r (addrIndex a) = { tag := addrTag a, state := m } := (hl _ _).trans (if_pos ⟨rfl, rfl⟩)
  have hold (c : CoreId) (i : LineIndex) (hc : ¬ (c = r ∧ i = addrIndex a)) : t.line c i = s.line c i :=
    (hl c i).trans (if_neg hc)
  intro c d hcd i ho
  by_cases hc : c = r ∧ i = addrIndex a
  · obtain ⟨rfl, rfl⟩ := hc
    rw [hnew] at ho ⊢
    rw [hold d _ fun h => hcd h.1.symm]
    by_contra hn
    obtain ⟨hv, ht⟩ := not_or.mp hn
    obtain ⟨rfl, -⟩ := hh d hcd.symm ((holds_iff s d a).mpr ⟨hv, not_not.mp ht⟩)
    rcases ho with ho | ho <;> exact absurd ho nofun
  · rw [hold c i hc] at ho ⊢
    by_cases hd : d = r ∧ i = addrIndex a
    · obtain ⟨rfl, rfl⟩ := hd
      rw [hnew]
      refine .inr fun ht => ?_
      have hv : (s.line c (addrIndex a)).state ≠ .invalid := fun hi => by
        rcases ho with ho | ho <;> exact absurd (hi.symm.trans ho) nofun
      obtain ⟨-, hs⟩ := hh c hcd ((holds_iff s c a).mpr ⟨hv, ht.symm⟩)
      rcases ho with ho | ho <;> exact absurd (hs.symm.trans ho) nofun
    · rw [hold d i hd]
      exact h c d hcd i ho

/-- R269, R270: the state of a filled line fits what the others hold. -/
theorem sharedInv_finalizeFill {s : State} {m : Mesi} (h : SharedInv s) (hb : s.bus.busy = true)
    (hc : s.bus.cooldown = 0)
    (hm : (s.bus.cmd = .read ∧ m = filledState s.bus.shared) ∨ (s.bus.cmd = .readExclusive ∧ m = .modified)) :
    SharedInv (finalizeFill s m) := by
  have hk : s.bus.cmd = .read ∨ s.bus.cmd = .readExclusive := hm.imp And.left And.left
  obtain ⟨-, -, -, -, hothers⟩ := h.fill hb hk
  have hpost : s.bus.postFlush = .invalid := by
    obtain ⟨-, -, -, -, -, hpost⟩ := h.bus
    refine hpost.resolve_right fun ⟨_, _, hf⟩ => ?_
    rcases hk with hk | hk <;> exact absurd (hk.symm.trans hf) nofun
  refine sharedInv_of_free rfl (busInv_finished hc rfl rfl hpost)
    (coherent_fill h.coherent (line_finalizeFill s m) fun o ho hoh => ?_)
  obtain ⟨hread, hshared, hstate⟩ := hothers o ho hoh
  refine ⟨?_, hstate⟩
  rcases hm with ⟨-, rfl⟩ | ⟨hrx, -⟩
  · rw [hshared]; rfl
  · exact absurd (hread.symm.trans hrx) nofun

/-- R271: the drained line is tamed to its post-flush state. -/
theorem sharedInv_finalizeFlush {s : State} (h : SharedInv s) (hb : s.bus.busy = true) (hc : s.bus.cooldown = 0)
    (hf : s.bus.cmd = .flush) : SharedInv (finalizeFlush s) := by
  obtain ⟨-, hmod, -⟩ := h.flush hb hf
  have hv : (s.line s.bus.origid (addrIndex s.bus.addr)).state ≠ .invalid := by rw [hmod]; nofun
  have hpost : s.bus.postFlush = .shared ∨ s.bus.postFlush = .invalid := by
    obtain ⟨-, -, -, -, -, hpost⟩ := h.bus
    exact hpost.symm.imp And.left id
  refine sharedInv_of_free rfl (busInv_finished hc rfl rfl rfl) (coherent_of_tamer h.coherent fun c i => ?_)
  show Tamer (s.line c i) ((s.setLineState s.bus.origid (addrIndex s.bus.addr) s.bus.postFlush).line c i)
  rw [line_setLineState]
  split
  · rename_i hci
    obtain ⟨rfl, rfl⟩ := hci
    exact tamer_downgrade hv hpost
  · exact Tamer.refl _

/-- R256: the controller step keeps the invariants of bus and caches. -/
theorem sharedInv_busStep {s t : State} (h : SharedInv s) (hs : busStep s = .next t) : SharedInv t := by
  rcases busStep_cases hs with ⟨hb, hs⟩ | ⟨hb, hc, rfl⟩ | ⟨hb, hc, hs⟩
  · exact sharedInv_idleStep h hb hs
  · exact sharedInv_cooldownStep h hb hc
  · have hfill := sharedInv_fillWord h hb hc
    have hflush := sharedInv_flushWord h hb hc
    rcases transferStep_cases hs with ⟨-, -, rfl⟩ | ⟨hk, -, rfl⟩ | ⟨hk, -, rfl⟩ | ⟨-, -, rfl⟩ | ⟨hk, -, rfl⟩
    · exact hfill
    · exact sharedInv_finalizeFill hfill hb hc (.inl ⟨hk, rfl⟩)
    · exact sharedInv_finalizeFill hfill hb hc (.inr ⟨hk, rfl⟩)
    · exact hflush
    · exact sharedInv_finalizeFlush hflush hb hc hk

/-! ## The mailboxes under a controller step (R243, R272) -/

/-- The controller step from `s` to `t` completes core `c`'s request: its mailbox is done and its block valid, Modified
for a ReadExclusive. -/
structure Completed (s t : State) (c : CoreId) : Prop where
  busy : s.bus.busy = true
  cmd : s.bus.cmd = .read ∨ s.bus.cmd = .readExclusive
  origid : c = s.bus.origid
  mbox : (t.core c).mbox = (s.core c).mbox.complete
  tag : (t.line c (addrIndex s.bus.addr)).tag = addrTag s.bus.addr
  valid : (t.line c (addrIndex s.bus.addr)).state ≠ .invalid
  modified : s.bus.cmd = .readExclusive → (t.line c (addrIndex s.bus.addr)).state = .modified

/-- R269 to R272: the end of a fill completes the requester's mailbox and no other. -/
theorem mbox_finalizeFill {s : State} {m : Mesi} (hb : s.bus.busy = true)
    (hk : s.bus.cmd = .read ∨ s.bus.cmd = .readExclusive) (hv : m ≠ .invalid)
    (hm : s.bus.cmd = .readExclusive → m = .modified) (c : CoreId) :
    ((finalizeFill (fillWord s) m).core c).mbox = (s.core c).mbox ∨ Completed s (finalizeFill (fillWord s) m) c := by
  by_cases hc : c = s.bus.origid
  · subst hc
    have hline : (finalizeFill (fillWord s) m).line s.bus.origid (addrIndex s.bus.addr) =
        { tag := addrTag s.bus.addr, state := m } :=
      (line_finalizeFill (fillWord s) m _ _).trans (if_pos ⟨rfl, rfl⟩)
    refine .inr ⟨hb, hk, rfl, ?_, by rw [hline], by rw [hline]; exact hv, by rw [hline]; exact hm⟩
    rw [← mbox_fillWord s s.bus.origid, finalizeFill, State.onBus_core]
    exact congrArg Core.mbox (State.core_onCore_same _ _ _)
  · refine .inl ?_
    rw [← mbox_fillWord s c, finalizeFill, State.onBus_core]
    exact congrArg Core.mbox (State.core_onCore_other _ _ _ _ hc)

/-- R243, R256: the controller step leaves a mailbox as it is, or completes its request. -/
theorem mbox_busStep {s t : State} (h : busStep s = .next t) (c : CoreId) :
    (t.core c).mbox = (s.core c).mbox ∨ Completed s t c := by
  rcases busStep_cases h with ⟨-, h⟩ | ⟨-, -, rfl⟩ | ⟨hb, -, h⟩
  · rcases idleStep_cases h with ⟨-, rfl⟩ | ⟨r, -, -, rfl⟩
    · exact .inl rfl
    · exact .inl (mbox_serve ..)
  · exact .inl rfl
  · rcases transferStep_cases h with ⟨-, -, rfl⟩ | ⟨hk, -, rfl⟩ | ⟨hk, -, rfl⟩ | ⟨-, -, rfl⟩ | ⟨-, -, rfl⟩
    · exact .inl (mbox_fillWord s c)
    · have hv : filledState s.bus.shared ≠ .invalid := by cases s.bus.shared <;> nofun
      exact mbox_finalizeFill hb (.inl hk) hv (fun hrx => absurd (hk.symm.trans hrx) nofun) c
    · exact mbox_finalizeFill (m := .modified) hb (.inr hk) nofun (fun _ => rfl) c
    · exact .inl rfl
    · exact .inl (mbox_setLineState ..)

/-- R225, R302: of a core the controller step changes the cache and the mailbox alone. -/
theorem core_busStep {s t : State} (h : busStep s = .next t) (c : CoreId) :
    t.core c = { s.core c with cache := (t.core c).cache, mbox := (t.core c).mbox } :=
  (busFrame_busStep h).core c

/-- R264, R272: only a pending request is completed. -/
theorem pending_of_completed {s t : State} {c : CoreId} (h : SharedInv s) (hc : Completed s t c) :
    (s.core c).mbox.pending = true := by
  obtain ⟨hp, -⟩ := h.fill hc.busy hc.cmd
  rw [hc.origid]
  exact hp

/-- R44, R194, R245: the controller step keeps the mailbox invariant of a core whose completed request, if it had one,
is acknowledged; and what the mailbox then holds was pending before. -/
theorem mailboxInv_busStep {s t : State} {c : CoreId} (h : SharedInv s) (hs : busStep s = .next t)
    (hm : (s.core c).MailboxInv c) (hd : (s.core c).mbox.done = false) :
    (t.core c).MailboxInv c ∧
      ((t.core c).mbox.pending = true ∨ (t.core c).mbox.done = true → (s.core c).mbox.pending = true) := by
  obtain ⟨howner, -, hreq, -⟩ := hm
  have hslot : (t.core c).slotMEM = (s.core c).slotMEM := by rw [core_busStep hs c]
  rcases mbox_busStep hs c with hmb | hc
  · have hnd : ¬ (t.core c).mbox.done = true := by rw [hmb, hd]; nofun
    refine ⟨⟨by rw [hmb]; exact howner, fun hb => hnd hb.2, fun hp => ?_, fun hd' => absurd hd' hnd⟩,
      fun hp => by rw [← hmb]; exact hp.resolve_right hnd⟩
    rw [Core.RequestInv, hslot, hmb]
    rw [hmb] at hp
    exact hreq hp
  · have hpend := pending_of_completed h hc
    obtain ⟨-, haddr, hcmd, -, -⟩ := h.fill hc.busy hc.cmd
    rw [← hc.origid] at haddr hcmd
    refine ⟨⟨by rw [hc.mbox]; exact howner, ?_, fun _ => ?_, fun _ => ?_⟩, fun _ => hpend⟩
    · rw [hc.mbox]; exact fun hb => absurd hb.1 nofun
    · rw [Core.RequestInv, hslot, hc.mbox]
      exact hreq (.inl hpend)
    · have ha : (t.core c).mbox.addr = s.bus.addr := by rw [hc.mbox]; exact haddr
      have hk : (t.core c).mbox.cmd = s.bus.cmd := by rw [hc.mbox]; exact hcmd
      rw [ha, hk]
      exact ⟨(hit_iff _ _).mpr ⟨hc.valid, hc.tag⟩, hc.modified⟩

end Sys2Proof.Proofs
end

section
/-!
The statements about the invariant of the machine (44_pipeline.md rules R194, R207, 46_mailbox.md rule R245,
47_bus_controller.md rule R274): every step keeps it, and a completed request is served in the next cycle.
-/

namespace Sys2Proof.Proofs

open Sys2Proof Sys2Proof.Machine

/-! ## The evaluation phase: stores keep the bus and cache invariants (R191, R245) -/

section Evaluation

variable {s : State}

/-- The evaluation of a core that meets its invariant. -/
theorem evaluated_of_inv (hinv : s.Inv) (c : CoreId) :
    (s.core c).clearSignals.Evaluated ((evaluated s).core c) := by
  obtain ⟨-, hw, -, -, -⟩ := (hinv.cores c).quiet
  rw [evaluated_core]
  exact evalCore_evaluated (k := (s.core c).clearSignals) hw rfl rfl

/-- What the evaluation makes of the mailbox and the lines of a core that meets its invariant. -/
theorem accessed_of_inv (hinv : s.Inv) (c : CoreId) : Accessed (s.core c).clearSignals ((evaluated s).core c) :=
  have hm : (s.core c).clearSignals.MailboxInv c := (hinv.cores c).mailbox
  accessed_evaluated hm (evaluated_of_inv hinv c)

theorem line_evaluated_upgraded (hinv : s.Inv) (c : CoreId) (i : LineIndex) :
    LineUpgraded (s.line c i) ((evaluated s).line c i) :=
  (accessed_of_inv hinv c).lines i

theorem line_evaluated_tamer (hinv : s.Inv) (c : CoreId) (i : LineIndex) :
    Tamer (s.line c i) ((evaluated s).line c i) :=
  tamer_of_upgraded (line_evaluated_upgraded hinv c i)

/-- R192: a core that waits keeps mailbox and lines. -/
theorem evaluated_of_pending (hinv : s.Inv) {c : CoreId} (hp : (s.core c).mbox.pending = true) :
    ((evaluated s).core c).mbox = (s.core c).mbox ∧ ∀ i, (evaluated s).line c i = s.line c i := by
  obtain ⟨hmbox, hcache⟩ := (accessed_of_inv hinv c).waits hp
  exact ⟨hmbox, fun i => congrArg (fun ca : Cache => ca.line i) hcache⟩

theorem fillInv_evaluated (hinv : s.Inv) : (evaluated s).FillInv := by
  intro hb hk
  obtain ⟨hp, haddr, hcmd, hev, hothers⟩ := hinv.fill hb hk
  obtain ⟨hmbox, hlines⟩ := evaluated_of_pending hinv hp
  rw [evaluated_bus, hmbox]
  refine ⟨hp, haddr, hcmd, (mustEvict_congr (hlines _)).trans hev, fun o ho hh => ?_⟩
  obtain ⟨hread, hshared, hstate⟩ := hothers o ho (holds_of_tamer (line_evaluated_tamer hinv o _) hh)
  exact ⟨hread, hshared, by rw [lineUpgraded_shared (line_evaluated_upgraded hinv o _) hstate]; exact hstate⟩

theorem flushInv_evaluated (hinv : s.Inv) : (evaluated s).FlushInv := by
  intro hb hk
  obtain ⟨hbase, hmod, htag⟩ := hinv.flush hb hk
  have hup := line_evaluated_upgraded hinv s.bus.origid (addrIndex s.bus.addr)
  exact ⟨hbase, lineUpgraded_modified hup hmod, (lineUpgraded_tag hup).trans htag⟩

/-- The evaluation phase keeps the invariants of bus and caches. -/
theorem sharedInv_evaluated (hinv : s.Inv) : SharedInv (evaluated s) where
  bus := hinv.bus
  fill := fillInv_evaluated hinv
  flush := flushInv_evaluated hinv
  serves hb := by
    obtain ⟨c, hp⟩ := hinv.serves hb
    obtain ⟨hmbox, -⟩ := evaluated_of_pending hinv hp
    exact ⟨c, by rw [hmbox]; exact hp⟩
  coherent := coherent_of_tamer hinv.coherent (line_evaluated_tamer hinv)

/-- R194, R245: after the evaluation no completion is left unacknowledged. -/
theorem mailboxInv_evaluated (hinv : s.Inv) (c : CoreId) : ((evaluated s).core c).MailboxInv c := by
  have hacc := accessed_of_inv hinv c
  have hnd : ¬ ((evaluated s).core c).mbox.done = true := by rw [hacc.done]; nofun
  obtain ⟨howner, -⟩ := (hinv.cores c).mailbox
  refine ⟨(evaluated_of_inv hinv c).kept.requester.trans howner, fun hb => hnd hb.2, fun hp => ?_,
    fun hd => absurd hd hnd⟩
  exact (hacc.request (hp.resolve_right hnd)).2

end Evaluation

/-! ## The clock edge (R200) -/

@[simp] theorem clockEdge_mbox (k : Core) : (clockEdge k).mbox = k.mbox := by
  obtain ⟨_, _, _, _, _, h⟩ := edgeSlots_frame (edgeCounters k)
  simp [clockEdge, h]

/-- R200, R245: the edge leaves a stalled core's request and the instruction that made it together. -/
theorem mailboxInv_clockEdge {c : CoreId} {k : Core} (h : k.MailboxInv c)
    (hs : k.mbox.pending = true ∨ k.mbox.done = true → k.slotMEM.stall = true) : (clockEdge k).MailboxInv c := by
  obtain ⟨howner, hboth, hreq, hdone⟩ := h
  rw [Core.MailboxInv, Core.RequestInv, clockEdge_mbox, clockEdge_cache]
  refine ⟨howner, hboth, fun hp => ?_, hdone⟩
  obtain ⟨-, hslot, -⟩ := edgeWithMemoryStalled k (hs hp)
  rw [hslot]
  exact hreq hp

theorem sharedInv_endCycle {s : State} (h : SharedInv s) : SharedInv (endCycle s) :=
  h.congr (fun c i => by rw [State.line, State.core_endCycle, clockEdge_cache]; rfl)
    (fun c => by rw [State.core_endCycle, clockEdge_mbox]) rfl h.bus

/-! ## The step -/

section Step

variable {s t : State}

/-- R44, R194, R245: a step keeps the mailbox invariant of every core. -/
theorem step_keeps_mailbox (hinv : s.Inv) (h : step s = .next t) (c : CoreId) : (t.core c).MailboxInv c := by
  obtain ⟨u, hu, rfl⟩ := step_next h
  have hacc := accessed_of_inv hinv c
  obtain ⟨hm, hpending⟩ :=
    mailboxInv_busStep (sharedInv_evaluated hinv) hu (mailboxInv_evaluated hinv c) hacc.done
  have hslot : (u.core c).slotMEM = ((evaluated s).core c).slotMEM := by rw [core_busStep hu c]
  rw [State.core_endCycle]
  refine mailboxInv_clockEdge hm fun hp => ?_
  rw [hslot]
  exact (hacc.request (hpending hp)).1

/-- R47, R72, R274: a step keeps the invariants of bus and caches. -/
theorem step_keeps_shared (hinv : s.Inv) (h : step s = .next t) : SharedInv t := by
  obtain ⟨u, hu, rfl⟩ := step_next h
  exact sharedInv_endCycle (sharedInv_busStep (sharedInv_evaluated hinv) hu)

/-- Settles O45: the order of each pipeline, the mailboxes, bus and caches together, and the canonical memories are each
kept by every step. -/
theorem stepKeepsInv : Obligations.StepKeepsInv := by
  intro s t hinv h
  obtain ⟨hmem, himem⟩ := stepKeepsMemoriesCanonical s t hinv.mem (fun c => (hinv.cores c).imem) h
  have hshared := step_keeps_shared hinv h
  refine
    { cores := fun c => ?_, bus := hshared.bus, fill := hshared.fill, flush := hshared.flush, serves := hshared.serves
      coherent := hshared.coherent, mem := hmem, focus := ?_ }
  · obtain ⟨hquiet, hzero, hredirect, hhalt⟩ := step_keeps_pipeline (hinv.cores c) h
    exact ⟨hquiet, hzero, hredirect, hhalt, step_keeps_mailbox hinv h c, himem c⟩
  · obtain ⟨u, -, rfl⟩ := step_next h
    rfl

/-! ## The retry (R190, R191, R194) -/

/-- The stages behind memory in the order of the evaluation count nothing. -/
theorem counters_after_memory (k : Core) :
    (evalStageCore .fetch (evalStageCore .decode (evalStageCore .execute k))).counters = k.counters := by
  obtain ⟨v, hx⟩ := evalStageCore_execute k
  have hfetch (k : Core) : (evalStageCore .fetch k).counters = k.counters := by
    rw [evalStageCore_fetch]
    rcases fetchStage_cases k with ⟨-, e⟩ | ⟨-, e⟩ <;> rw [e]
  have hdecode (k : Core) : (evalStageCore .decode k).counters = k.counters := by
    rcases evalStageCore_decode k with ⟨-, -, e⟩ | ⟨-, ⟨-, -, -, _, _, e⟩ | ⟨-, -, e⟩ | ⟨-, e⟩⟩ <;> rw [e] <;> rfl
  rw [hfetch, hdecode, hx, Core.setExResult_counters]

/-- R190, R191: the evaluation of a core with a completed request counts at most a retirement. -/
theorem counters_evalCore_retry {c : CoreId} {k : Core} (h : k.MailboxInv c) (hd : k.mbox.done = true) :
    (evalCore k).counters = { k.counters with instructions := (evalCore k).counters.instructions } := by
  have hm : (evalStageCore .writeback k).MailboxInv c := by rw [evalStageCore_writeback]; exact h
  obtain ⟨-, -, hcount⟩ := evalStageCore_memory_retry hm (by rw [evalStageCore_writeback]; exact hd)
  rw [evalCore, counters_after_memory, hcount, evalStageCore_writeback]

/-- R244: a completed request is acknowledged in the next evaluation, and its instruction does not stall. -/
theorem evaluated_retry (hinv : s.Inv) {c : CoreId} (hd : (s.core c).mbox.done = true) :
    ((evaluated s).core c).mbox = (s.core c).mbox.acknowledge ∧
      ((evaluated s).core c).slotMEM = (s.core c).clearSignals.slotMEM := by
  have hacc := (evaluated_of_inv hinv c).access
  obtain ⟨hmbox, hslot, -⟩ :=
    evalStageCore_memory_retry (k := (s.core c).clearSignals) (hinv.cores c).mailbox hd
  exact ⟨hacc.mbox.trans hmbox, hacc.slotMEM.trans hslot⟩

/-- Settles O54: the evaluation acknowledges the completion and does not stall, and the controller completes no request
of a core that has none pending. -/
theorem retrySucceeds : Obligations.RetrySucceeds := by
  intro s t c hinv hd h
  obtain ⟨u, hu, rfl⟩ := step_next h
  obtain ⟨-, hboth, hreq, -⟩ := (hinv.cores c).mailbox
  obtain ⟨ha, -⟩ := hreq (.inr hd)
  have hp : (s.core c).mbox.pending = false := Bool.eq_false_iff.mpr fun hp => hboth ⟨hp, hd⟩
  obtain ⟨hmbox, hslot⟩ := evaluated_retry hinv hd
  have hmb : (u.core c).mbox = ((evaluated s).core c).mbox :=
    (mbox_busStep hu c).resolve_right fun hc => by
      have hpend := pending_of_completed (sharedInv_evaluated hinv) hc
      rw [hmbox] at hpend
      exact absurd (hp.symm.trans hpend) nofun
  have hMEM : (u.core c).slotMEM = (s.core c).clearSignals.slotMEM := by rw [core_busStep hu c]; exact hslot
  have hcounters : (u.core c).counters =
      { (s.core c).counters with instructions := (u.core c).counters.instructions } := by
    rw [core_busStep hu c, evaluated_core]
    exact counters_evalCore_retry (k := (s.core c).clearSignals) (hinv.cores c).mailbox hd
  have hWB : (clockEdge (u.core c)).slotWB = { (s.core c).slotMEM with
      result := (u.core c).sig.memResult, stall := false } := by
    rw [clockEdge_slotWB (by rw [hMEM]; rfl), hMEM]
    exact advance_active ha _
  rw [State.core_endCycle, clockEdge_mbox, hmb, hmbox, hWB, clockEdge_counters, edgeCounters, hcounters]
  exact ⟨rfl, hp, ha, rfl, rfl, rfl, rfl, rfl⟩

end Step

end Sys2Proof.Proofs
end

section
/-!
The statement about the address decomposition of the cache (45_cache.md, rule R220).
-/

namespace Sys2Proof.Proofs

open Sys2Proof Sys2Proof.Machine

/-- R220: three parts side by side, as a number: the tag counts blocks of 256 words, the index blocks of 4. -/
theorem wordAddr_toNat (t : Tag) (i : LineIndex) (o : Offset) :
    (wordAddr t i o).toNat = 256 * t.toNat + 4 * i.val + o.val := by
  have hi : i.val < 2 ^ 6 := i.isLt
  have ho : o.val < 2 ^ 2 := o.isLt
  calc (wordAddr t i o).toNat
      = (t.toNat <<< 6 ||| i.val) <<< 2 ||| o.val := by
        rw [wordAddr_value, BitVec.toNat_append, BitVec.toNat_append]; rfl
    _ = 2 ^ 2 * (2 ^ 6 * t.toNat + i.val) + o.val := by
        rw [← Nat.shiftLeft_add_eq_or_of_lt hi, ← Nat.shiftLeft_add_eq_or_of_lt ho]
        simp only [Nat.shiftLeft_eq, Nat.mul_comm]
    _ = 256 * t.toNat + 4 * i.val + o.val := by omega

/-- R220: an address is the number its tag, index and offset make up. -/
theorem addr_toNat_parts (a : Addr) :
    a.toNat = 256 * (addrTag a).toNat + 4 * (addrIndex a).val + (addrOffset a).val := by
  rw [← wordAddr_toNat, wordAddr_parts]

/-- R220: the block base has the tag and the index of the address, and offset 0. -/
theorem blockBase_toNat_parts (a : Addr) :
    (blockBase a).toNat = 256 * (addrTag a).toNat + 4 * (addrIndex a).val := by
  rw [blockBase_eq, wordAddr_toNat]; rfl

/-- Settles O32: an index below 64 and an offset below 4 are digits of the address, so division recovers them. -/
theorem addressDecomposition : Obligations.AddressDecomposition := by
  intro a
  have hi : (addrIndex a).val < 64 := (addrIndex a).isLt
  have ho : (addrOffset a).val < 4 := (addrOffset a).isLt
  have ha := addr_toNat_parts a
  have hb := blockBase_toNat_parts a
  exact ⟨by omega, by omega, by omega, wordAddr_parts a, by omega⟩

end Sys2Proof.Proofs
end

section
/-!
The statement about the two controller steps that move no data (46_mailbox.md, rule R242; 47_bus_controller.md, rules
R257, R258 and R266).
-/

namespace Sys2Proof.Proofs

open Sys2Proof Sys2Proof.Machine

/-- R242: what makes a mailbox take part in arbitration. -/
theorem eligible_iff {m : Mailbox} : m.eligible = true ↔ m.pending = true ∧ m.done = false := by
  rw [Mailbox.eligible, Bool.and_eq_true, Bool.not_eq_true']

/-- R258: without an eligible mailbox the scan finds none, wherever it starts. -/
theorem arbitrate_eq_none {s : State} (h : ∀ c, ¬ (s.core c).mbox.eligible = true) : arbitrate s = none :=
  List.find?_eq_none.mpr fun c _ => h c

/-- R257: an idle step that selects no core leaves the wires reset. -/
theorem idleStep_of_arbitrate_none {s : State} (h : arbitrate (s.onBus Bus.resetWires) = none) :
    idleStep s = .next (s.onBus Bus.resetWires) := by
  simp only [idleStep, h]

/-- R256: a controller that is not busy takes the idle step. -/
theorem busStep_of_idle {s : State} (hb : s.bus.busy = false) : busStep s = idleStep s := by
  rw [busStep, hb, if_neg Bool.false_ne_true]

/-- R256, R266: a busy controller that still cools down takes the cooldown step. -/
theorem busStep_of_cooldown {s : State} (hb : s.bus.busy = true) (hc : 0 < s.bus.cooldown) :
    busStep s = .next (cooldownStep s) := by
  rw [busStep, if_pos hb, if_pos hc]

/-- Settles O33: resetting the wires changes no mailbox, so the idle step still selects no core after it; a busy
controller looks at the cooldown before it looks at the command. -/
theorem idleAndCooldownSteps : Obligations.IdleAndCooldownSteps := by
  intro s
  constructor
  · intro hidle hmbox
    have hnone : arbitrate (s.onBus Bus.resetWires) = none :=
      arbitrate_eq_none fun c he => hmbox c (eligible_iff.mp he)
    rw [busStep_of_idle hidle, idleStep_of_arbitrate_none hnone]
    rfl
  · intro hbusy hcool
    exact busStep_of_cooldown hbusy hcool

end Sys2Proof.Proofs
end

section
/-!
The statement about the arbiter's order (46_mailbox.md rule R242, 47_bus_controller.md rule R258).
-/

namespace Sys2Proof.Proofs

open Sys2Proof Sys2Proof.Machine

/-- R258: how many cores the scan that starts just after `last` meets before `r`. -/
def scanDistance (last r : CoreId) : Nat := (r.val + 3 - last.val) % 4

theorem scanDistance_lt (last r : CoreId) : scanDistance last r < (scanOrder last).length := by
  rw [scanOrder_value]
  exact Nat.mod_lt _ (by decide)

theorem getElem_scanDistance (last r : CoreId) :
    (scanOrder last)[scanDistance last r]'(scanDistance_lt last r) = r := by
  revert last r; decide

theorem scanDistance_getElem (last : CoreId) (n : Fin (scanOrder last).length) :
    scanDistance last (scanOrder last)[n.val] = n.val := by
  revert last; decide

/-- Settles O34: a core's place in the scan is its distance from the last-granted core, so that no eligible core stands
at an earlier place says that none is nearer. -/
theorem arbitrationIsRoundRobin : Obligations.ArbitrationIsRoundRobin := by
  intro s r
  show arbitrate s = some r ↔ (s.core r).mbox.eligible = true ∧ ∀ o : CoreId, (s.core o).mbox.eligible = true →
    scanDistance s.bus.lastGranted r ≤ scanDistance s.bus.lastGranted o
  rw [arbitrate, List.find?_eq_some_iff_getElem]
  refine and_congr_right fun _ => ⟨?_, fun hnearest => ?_⟩
  · rintro ⟨n, hn, rfl, hbefore⟩ o ho
    rw [scanDistance_getElem _ ⟨n, hn⟩]
    by_contra hlt
    have hskipped := hbefore _ (not_le.mp hlt)
    rw [getElem_scanDistance, ho] at hskipped
    exact absurd hskipped nofun
  · refine ⟨_, scanDistance_lt _ r, getElem_scanDistance _ r, fun n hn => ?_⟩
    have hlen := hn.trans (scanDistance_lt _ r)
    rw [Bool.not_eq_true', Bool.eq_false_iff]
    intro he
    have hle := hnearest _ he
    rw [scanDistance_getElem _ ⟨n, hlen⟩] at hle
    exact absurd hn (not_lt.mpr hle)

end Sys2Proof.Proofs
end

section
/-!
The statements about the idle step that serves a request: the eviction flush, the snoop flush and the grant
(47_bus_controller.md rules R259 to R265).
-/

namespace Sys2Proof.Proofs

open Sys2Proof Sys2Proof.Machine

/-! ## From the selected mailbox to the service (R257 to R259) -/

/-- R257, R258: the idle step that selects a request serves it on reset wires. -/
theorem busStep_of_selects {s : State} {r : CoreId} {c : BusCmd} {a : Addr} (h : s.Selects r c a) :
    busStep s = .next (serve (s.onBus Bus.resetWires) r c a) := by
  obtain ⟨hb, hr, rfl, rfl, hk⟩ := h
  have hr' : arbitrate (s.onBus Bus.resetWires) = some r := hr
  rw [busStep_of_idle hb]
  simp only [idleStep, hr', State.onBus_core]
  rcases hk with hk | hk <;> simp only [hk]

theorem mustEvict_iff {s : State} {r : CoreId} {a : Addr} :
    mustEvict s r a = true ↔
      (s.line r (addrIndex a)).state = .modified ∧ (s.line r (addrIndex a)).tag ≠ addrTag a := by
  rw [mustEvict, Bool.and_eq_true, decide_eq_true_eq, decide_eq_true_eq]

/-- R259, R260: with no eviction needed, the service is the snoop scan of every core. -/
theorem busStep_of_no_eviction {s : State} {r : CoreId} {c : BusCmd} {a : Addr} (h : s.Selects r c a)
    (hevict : ¬ ((s.line r (addrIndex a)).state = .modified ∧ (s.line r (addrIndex a)).tag ≠ addrTag a)) :
    busStep s = .next (snoopScan r c a allCores (s.onBus Bus.resetWires)) := by
  have hev : ¬ mustEvict (s.onBus Bus.resetWires) r a = true := mustEvict_iff.not.mpr hevict
  rw [busStep_of_selects h, serve, if_neg hev]

theorem mem_allCores (o : CoreId) : o ∈ allCores := List.mem_finRange o

theorem nodup_allCores : allCores.Nodup := List.nodup_finRange _

/-- Settles O35: the eviction check comes before the snoop scan, and the line it reads is not on the bus. -/
theorem evictionFlushStarts : Obligations.EvictionFlushStarts := by
  intro s r c a hsel hmod htag
  have hevict : mustEvict (s.onBus Bus.resetWires) r a = true := mustEvict_iff.mpr ⟨hmod, htag⟩
  rw [busStep_of_selects hsel, serve, if_pos hevict]
  rfl

/-! ## One core of the snoop scan (R260 to R263) -/

section Scan

variable {r o : CoreId} {k : BusCmd} {a : Addr} {os : List CoreId} {s : State}

/-- R260: the scan looks at cores other than the requester that hold the block. -/
def otherHolder (s : State) (r : CoreId) (a : Addr) (o : CoreId) : Bool := decide (o ≠ r) && (s.core o).cache.holds a

theorem otherHolder_iff : otherHolder s r a o = true ↔ o ≠ r ∧ (s.core o).cache.holds a = true := by
  rw [otherHolder, Bool.and_eq_true, decide_eq_true_eq]

theorem snoopScan_skip (h : ¬ otherHolder s r a o = true) : snoopScan r k a (o :: os) s = snoopScan r k a os s := by
  rw [snoopScan]
  split
  · rfl
  · rename_i hor
    rw [if_neg fun hh => h (otherHolder_iff.mpr ⟨hor, hh⟩)]

/-- R261: a Modified holder ends the scan with a flush. -/
theorem snoopScan_modified (h : otherHolder s r a o = true) (hm : (s.line o (addrIndex a)).state = .modified) :
    snoopScan r k a (o :: os) s =
      s.onBus fun b => ({ b with shared := true } : Bus).startFlush o (blockBase a) (postFlushOf k) := by
  obtain ⟨hor, hh⟩ := otherHolder_iff.mp h
  rw [snoopScan, if_neg hor, if_pos hh]
  exact if_pos hm

/-- R262, R263: any other holder is downgraded, and the scan goes on. -/
theorem snoopScan_downgrade (h : otherHolder s r a o = true) (hm : (s.line o (addrIndex a)).state ≠ .modified) :
    snoopScan r k a (o :: os) s = snoopScan r k a os
      ((s.onBus fun b => { b with shared := true }).setLineState o (addrIndex a) (snoopedState k)) := by
  obtain ⟨hor, hh⟩ := otherHolder_iff.mp h
  rw [snoopScan, if_neg hor, if_pos hh]
  exact if_neg hm

/-! ## The scan that ends with a flush (R261) -/

/-- R260, R261: when the Modified holder is the only one, the scan changes nothing before it gets there. -/
theorem snoopScan_startsFlush (ho : o ∈ os) (hh : otherHolder s r a o = true)
    (hm : (s.line o (addrIndex a)).state = .modified) (honly : ∀ d, otherHolder s r a d = true → d = o) :
    snoopScan r k a os s =
      s.onBus fun b => ({ b with shared := true } : Bus).startFlush o (blockBase a) (postFlushOf k) := by
  induction os with
  | nil => exact absurd ho List.not_mem_nil
  | cons d os ih =>
    by_cases hd : otherHolder s r a d = true
    · obtain rfl := honly d hd
      exact snoopScan_modified hh hm
    · rw [snoopScan_skip hd]
      exact ih (List.mem_of_ne_of_mem (by rintro rfl; exact hd hh) ho)

end Scan

/-- R72 (a): a block that one cache owns has no other holder. -/
theorem holder_unique_of_owned {s : State} {o d : CoreId} {a : Addr} (h : s.Coherent)
    (howned : (s.line o (addrIndex a)).Owned) (htag : (s.line o (addrIndex a)).tag = addrTag a)
    (hd : (s.core d).cache.holds a = true) : d = o := by
  by_contra hne
  obtain ⟨hv, ht⟩ := (holds_iff s d a).mp hd
  rcases h o d (Ne.symm hne) (addrIndex a) howned with hi | hother
  · exact hv hi
  · exact hother (ht.trans htag.symm)

/-- Settles O36: by coherence the Modified copy is the only one, so the scan reaches it with the caches as they were. -/
theorem snoopFlushStarts : Obligations.SnoopFlushStarts := by
  intro s r o c a hcoh hsel hevict hor hmod htag
  have hheld : (s.core o).cache.holds a = true := (holds_iff s o a).mpr ⟨by rw [hmod]; nofun, htag⟩
  have honly (d : CoreId) (hd : otherHolder s r a d = true) : d = o :=
    holder_unique_of_owned hcoh (.inl hmod) htag (otherHolder_iff.mp hd).2
  have hscan := snoopScan_startsFlush (s := s.onBus Bus.resetWires) (k := c) (mem_allCores o)
    (otherHolder_iff.mpr ⟨hor, hheld⟩) hmod honly
  rw [busStep_of_no_eviction hsel hevict, hscan]
  rfl

/-! ## The scan that ends with the grant (R262 to R264) -/

/-- R39: replacing the record of one line leaves every other line. -/
theorem line_setLine (c : Cache) (i j : LineIndex) (t : TagState) :
    (c.setLine i t).line j = if j = i then t else c.line j := by
  by_cases h : j = i
  · rw [if_pos h, h, Cache.line_setLine_same]
  · rw [if_neg h, Cache.line_setLine_other _ _ h]

theorem line_setState (c : Cache) (i j : LineIndex) (m : Mesi) :
    (c.setState i m).line j = if j = i then { tag := (c.line j).tag, state := m } else c.line j := by
  rw [Cache.setState, line_setLine]
  split
  · rename_i h
    rw [h]
  · rfl

/-- R262, R263: a core with its line of the block snooped. -/
def snoopedCore (k : BusCmd) (a : Addr) (c : Core) : Core :=
  { c with cache := c.cache.setState (addrIndex a) (snoopedState k) }

/-- A snooped line of a holder keeps the block's tag. -/
theorem line_snoopedCore_of_holds (k : BusCmd) {a : Addr} {c : Core} (h : c.cache.holds a = true) (i : LineIndex) :
    (snoopedCore k a c).cache.line i =
      if i = addrIndex a then { tag := addrTag a, state := snoopedState k } else c.cache.line i := by
  obtain ⟨-, htag⟩ := (hit_iff c.cache a).mp h
  refine (line_setState ..).trans (if_ctx_congr Iff.rfl (fun hi => ?_) fun _ => rfl)
  rw [hi, htag]

/-- How the scan of the cores `os` from `s` ends when it meets no Modified holder: the bus is granted, the shared signal
tells whether there was a holder, and the holders, no other core, are snooped. -/
structure Granted (r : CoreId) (k : BusCmd) (a : Addr) (os : List CoreId) (s t : State) : Prop where
  bus : t.bus = ({ s.bus with shared := s.bus.shared || os.any (otherHolder s r a) } : Bus).grant k a r
  snooped o : o ∈ os → otherHolder s r a o = true → t.core o = snoopedCore k a (s.core o)
  kept o : ¬ (o ∈ os ∧ otherHolder s r a o = true) → t.core o = s.core o

theorem Granted.cons_skip {r o : CoreId} {k : BusCmd} {a : Addr} {os : List CoreId} {s t : State}
    (h : Granted r k a os s t) (ho : ¬ otherHolder s r a o = true) : Granted r k a (o :: os) s t where
  bus := by rw [h.bus, List.any_cons, (Bool.not_eq_true _).mp ho, Bool.false_or]
  snooped d hd hh := h.snooped d (List.mem_of_ne_of_mem (by rintro rfl; exact ho hh) hd) hh
  kept d hd := h.kept d fun hm => hd ⟨List.mem_cons_of_mem o hm.1, hm.2⟩

/-- The state in which the scan goes on from a holder `o` that is not Modified (R262, R263). -/
def afterDowngrade (s : State) (o : CoreId) (k : BusCmd) (a : Addr) : State :=
  (s.onBus fun b => { b with shared := true }).setLineState o (addrIndex a) (snoopedState k)

theorem core_afterDowngrade_same (s : State) (o : CoreId) (k : BusCmd) (a : Addr) :
    (afterDowngrade s o k a).core o = snoopedCore k a (s.core o) := State.core_onCore_same _ _ _

theorem core_afterDowngrade_other (s : State) {o d : CoreId} (k : BusCmd) (a : Addr) (h : d ≠ o) :
    (afterDowngrade s o k a).core d = s.core d := State.core_onCore_other _ _ _ _ h

theorem otherHolder_congr {s t : State} {d : CoreId} (r : CoreId) (a : Addr) (h : t.core d = s.core d) :
    otherHolder t r a d = otherHolder s r a d := by
  rw [otherHolder, otherHolder, h]

/-- The scan goes on from a core it snooped: that core is not listed again, and the others are as they were. -/
theorem Granted.cons_downgrade {r o : CoreId} {k : BusCmd} {a : Addr} {os : List CoreId} {s t : State}
    (h : Granted r k a os (afterDowngrade s o k a) t) (hmem : o ∉ os) (ho : otherHolder s r a o = true) :
    Granted r k a (o :: os) s t where
  bus := by
    rw [h.bus, List.any_cons, ho, Bool.true_or, Bool.or_true]
    rfl
  snooped d hd hh := by
    rcases List.mem_cons.mp hd with rfl | hd
    · rw [h.kept d fun hm => hmem hm.1, core_afterDowngrade_same]
    · have hsame := core_afterDowngrade_other s k a (ne_of_mem_of_not_mem hd hmem)
      rw [h.snooped d hd (by rw [otherHolder_congr r a hsame, hh]), hsame]
  kept d hd := by
    have hdo : d ≠ o := by
      rintro rfl
      exact hd ⟨List.mem_cons_self, ho⟩
    have hsame := core_afterDowngrade_other s k a hdo
    rw [h.kept d fun hm => hd ⟨List.mem_cons_of_mem o hm.1, by rw [← otherHolder_congr r a hsame, hm.2]⟩, hsame]

/-- R262 to R264: a scan that meets no Modified holder grants the bus. -/
theorem snoopScan_grants {r : CoreId} {a : Addr} (k : BusCmd) {os : List CoreId} {s : State} (hos : os.Nodup)
    (hm : ∀ o ∈ os, otherHolder s r a o = true → (s.line o (addrIndex a)).state ≠ .modified) :
    Granted r k a os s (snoopScan r k a os s) := by
  induction os generalizing s with
  | nil =>
    refine ⟨?_, fun o ho => absurd ho List.not_mem_nil, fun _ _ => rfl⟩
    rw [List.any_nil, Bool.or_false]
    rfl
  | cons o os ih =>
    obtain ⟨hnot, hos⟩ := List.nodup_cons.mp hos
    obtain ⟨hfirst, hrest⟩ := List.forall_mem_cons.mp hm
    by_cases ho : otherHolder s r a o = true
    · rw [snoopScan_downgrade ho (hfirst ho)]
      refine Granted.cons_downgrade (ih (s := afterDowngrade s o k a) hos fun d hd => ?_) hnot ho
      have hsame := core_afterDowngrade_other s k a (ne_of_mem_of_not_mem hd hnot)
      rw [otherHolder_congr r a hsame, State.line, hsame]
      exact hrest d hd
    · rw [snoopScan_skip ho]
      exact (ih hos hrest).cons_skip ho

theorem any_otherHolder (s : State) (r : CoreId) (a : Addr) :
    allCores.any (otherHolder s r a) = decide (∃ o : CoreId, o ≠ r ∧ (s.core o).cache.holds a = true) := by
  rw [Bool.eq_iff_iff, List.any_eq_true, decide_eq_true_eq]
  simp only [mem_allCores, true_and, otherHolder_iff]

/-- Settles O37: the scan of every core, none of them a Modified holder, ends with the grant. -/
theorem grantSnoops : Obligations.GrantSnoops := by
  intro s r c a hsel hevict hclean
  have hgrant : Granted r c a allCores (s.onBus Bus.resetWires) (snoopScan r c a allCores (s.onBus Bus.resetWires)) :=
    snoopScan_grants c nodup_allCores fun o _ ho hm => by
      obtain ⟨hor, hh⟩ := otherHolder_iff.mp ho
      exact hclean o hor ⟨hm, ((holds_iff s o a).mp hh).2⟩
  have hframe := busFrame_snoopScan r c a allCores (s.onBus Bus.resetWires)
  refine ⟨_, busStep_of_no_eviction hsel hevict, ?_, snoopScan_mem .., hframe.cycle, hframe.focus, fun o => ?_⟩
  · rw [hgrant.bus, any_otherHolder]
    rfl
  · by_cases ho : otherHolder s r a o = true
    · have hcore := hgrant.snooped o (mem_allCores o) ho
      obtain ⟨hor, hh⟩ := otherHolder_iff.mp ho
      refine ⟨by rw [hcore]; rfl, by rw [hcore]; rfl, fun i => ?_⟩
      rw [State.line, hcore, State.onBus_core, line_snoopedCore_of_holds _ hh]
      exact if_congr ⟨fun hi => ⟨hor, hi, hh⟩, fun h => h.2.1⟩ rfl rfl
    · have hcore := hgrant.kept o fun h => ho h.2
      rw [otherHolder_iff] at ho
      refine ⟨by rw [hcore]; rfl, by rw [hcore]; rfl, fun i => ?_⟩
      rw [State.line, hcore, if_neg fun h => ho ⟨h.1, h.2.2⟩]
      rfl

end Sys2Proof.Proofs
end

section
/-!
The statements about the transfer step: the words of a fill and of a flush, and the step that finalizes each
(47_bus_controller.md rules R267 to R273).
-/

namespace Sys2Proof.Proofs

open Sys2Proof Sys2Proof.Machine

/-! ## The transfer step, by command and cursor (R256, R267 to R271) -/

/-- R256, R266: a busy controller with no cooldown left takes the transfer step. -/
theorem busStep_of_transfer {s : State} (hb : s.bus.busy = true) (hc : s.bus.cooldown = 0) :
    busStep s = transferStep s := by
  rw [busStep, if_pos hb, if_neg (by rw [hc]; exact Nat.lt_irrefl 0)]

/-- R269, R270: the state a fill gives its line. -/
def fillState (b : Bus) : Mesi := if b.cmd = .readExclusive then .modified else filledState b.shared

theorem transferStep_of_fill {s : State} (hk : s.bus.cmd = .read ∨ s.bus.cmd = .readExclusive) :
    transferStep s =
      .next (if lastWord s.bus then finalizeFill (fillWord s) (fillState s.bus) else fillWord s) := by
  rcases hk with hk | hk <;> simp only [transferStep, fillState, hk] <;> rfl

theorem transferStep_of_flush {s : State} (hk : s.bus.cmd = .flush) :
    transferStep s = .next (if lastWord s.bus then finalizeFlush (flushWord s) else flushWord s) := by
  simp only [transferStep, hk]

theorem lastWord_eq_false {b : Bus} (h : b.cursor.val < 3) : lastWord b = false :=
  decide_eq_false fun h4 => absurd (Nat.succ.inj h4) (Nat.ne_of_lt h)

theorem lastWord_eq_true {b : Bus} (h : b.cursor = 3) : lastWord b = true :=
  decide_eq_true (by rw [h]; rfl)

/-! ## One word of a fill (R267) -/

/-- R267: the address of a fill's word: block-aligned, so the cursor carries into no further digit. -/
theorem transferAddr_toNat (b : Bus) : (transferAddr b).toNat = b.addr.toNat / 4 * 4 + b.cursor.val := by
  obtain ⟨-, -, -, -, hbase⟩ := addressDecomposition b.addr
  have hadd : (transferAddr b).toNat = ((blockBase b.addr).toNat + b.cursor.val % 2 ^ 20) % 2 ^ 20 :=
    BitVec.toNat_add ..
  have haddr : b.addr.toNat < 2 ^ 20 := b.addr.isLt
  have hcur : b.cursor.val < 4 := b.cursor.isLt
  omega

/-- R40: replacing one word leaves every other word. -/
theorem word_setWord (c : Cache) (i j : LineIndex) (o p : Offset) (v : Word) :
    (c.setWord i o v).word j p = if j = i ∧ p = o then v else c.word j p := by
  split
  · rename_i h
    obtain ⟨rfl, rfl⟩ := h
    exact Cache.word_setWord_same ..
  · exact Cache.word_setWord_other _ _ (by assumption)

theorem withLineAndWord_setWord (c : Cache) (i : LineIndex) (o : Offset) (v : Word) :
    c.WithLineAndWord (c.setWord i o v) i (c.line i) o v := by
  refine ⟨fun j => ?_, fun j p => word_setWord c i j o p v⟩
  rw [Cache.line_setWord]
  split
  · rename_i h
    rw [h]
  · rfl

theorem withLineAndWord_setLine_setWord (c : Cache) (i : LineIndex) (t : TagState) (o : Offset) (v : Word) :
    c.WithLineAndWord ((c.setWord i o v).setLine i t) i t o v :=
  ⟨fun j => line_setLine _ i j t, fun j p => word_setWord c i j o p v⟩

/-- R267: the word a fill moves. -/
def fillValue (s : State) : Word := s.mem.read (s.bus.addr.toNat / 4 * 4 + s.bus.cursor.val)

theorem fillWord_eq (s : State) :
    fillWord s = (s.onCore s.bus.origid fun k =>
      { k with cache := k.cache.setWord (addrIndex s.bus.addr) s.bus.cursor (fillValue s) }).onBus
        fun b => b.advanceCursor (fillValue s) := by
  rw [fillValue, ← transferAddr_toNat]
  rfl

theorem bus_fillWord (s : State) : (fillWord s).bus = s.bus.advanceCursor (fillValue s) := by
  rw [fillWord_eq]
  rfl

theorem core_fillWord_requester (s : State) :
    (fillWord s).core s.bus.origid = { s.core s.bus.origid with
      cache := (s.core s.bus.origid).cache.setWord (addrIndex s.bus.addr) s.bus.cursor (fillValue s) } := by
  rw [fillWord_eq, State.onBus_core, State.core_onCore_same]

theorem core_fillWord_other (s : State) {o : CoreId} (h : o ≠ s.bus.origid) : (fillWord s).core o = s.core o := by
  rw [fillWord_eq, State.onBus_core, State.core_onCore_other _ _ _ _ h]

/-- Settles O38: before the last word the transfer step is the fill of one word. -/
theorem fillMovesOneWord : Obligations.FillMovesOneWord := by
  intro s hb hc hk hcur
  have hstep : busStep s = .next (fillWord s) := by
    rw [busStep_of_transfer hb hc, transferStep_of_fill hk, lastWord_eq_false hcur]
    rfl
  have hcore := core_fillWord_requester s
  refine ⟨fillWord s, hstep, rfl, rfl, rfl, bus_fillWord s, fun o ho => core_fillWord_other s ho, ?_, ?_⟩
  · rw [hcore]
  · rw [hcore]
    exact withLineAndWord_setWord ..

/-! ## The end of a fill (R269 to R273) -/

theorem core_finalizeFill_requester (s : State) (m : Mesi) :
    (finalizeFill s m).core s.bus.origid = { s.core s.bus.origid with
      cache := (s.core s.bus.origid).cache.setLine (addrIndex s.bus.addr) { tag := addrTag s.bus.addr, state := m }
      mbox := (s.core s.bus.origid).mbox.complete } := by
  rw [finalizeFill, State.onBus_core, State.core_onCore_same]

theorem core_finalizeFill_other (s : State) (m : Mesi) {o : CoreId} (h : o ≠ s.bus.origid) :
    (finalizeFill s m).core o = s.core o := by
  rw [finalizeFill, State.onBus_core, State.core_onCore_other _ _ _ _ h]

/-- Settles O39: with the cursor at 3 the word moved is the last, so the same step finalizes. -/
theorem fillFinalizes : Obligations.FillFinalizes := by
  intro s hb hc hk hcur
  have hstep : busStep s = .next (finalizeFill (fillWord s) (fillState s.bus)) := by
    rw [busStep_of_transfer hb hc, transferStep_of_fill hk, lastWord_eq_true hcur]
    rfl
  have hcore : (finalizeFill (fillWord s) (fillState s.bus)).core s.bus.origid = { s.core s.bus.origid with
      cache := ((s.core s.bus.origid).cache.setWord (addrIndex s.bus.addr) s.bus.cursor (fillValue s)).setLine
        (addrIndex s.bus.addr) { tag := addrTag s.bus.addr, state := fillState s.bus }
      mbox := (s.core s.bus.origid).mbox.complete } := by
    have h := core_finalizeFill_requester (fillWord s) (fillState s.bus)
    rw [bus_fillWord, Bus.advanceCursor_origid, core_fillWord_requester] at h
    exact h
  have hword : fillValue s = s.mem.read (s.bus.addr.toNat / 4 * 4 + 3) := by rw [fillValue, hcur]; rfl
  refine ⟨_, hstep, rfl, rfl, rfl, ?_, fun o ho => ?_, ?_, ?_⟩
  · show { (fillWord s).bus with busy := false, cursor := 0, lastGranted := (fillWord s).bus.origid } = _
    rw [bus_fillWord, hword]
    rfl
  · exact (core_finalizeFill_other (fillWord s) _ ho).trans (core_fillWord_other s ho)
  · rw [hcore]
    rfl
  · rw [hcore, hword, hcur]
    exact withLineAndWord_setLine_setWord ..

/-! ## One word of a flush (R268) -/

/-- R268: the word a flush moves. -/
def flushValue (s : State) : Word := (s.core s.bus.origid).cache.word (addrIndex s.bus.addr) s.bus.cursor

/-- R268: a flush writes its word at the bus address plus the cursor, and no other address. -/
theorem read_flushWord {s : State} (h : Memory.wf Config.memSize s.mem) (a : Nat) :
    (flushWord s).mem.read a =
      if a = (s.bus.addr.toNat + s.bus.cursor.val) % 2 ^ 20 then flushValue s else s.mem.read a := by
  have hmem : (flushWord s).mem = s.mem.write (flushAddr s.bus).toNat (flushValue s) := rfl
  rw [hmem, ← flushAddr_toNat]
  split
  · rename_i ha
    rw [ha, Memory.read_write_same h]
  · exact Memory.read_write_other _ _ (by assumption)

/-- Settles O40: before the last word the transfer step is the flush of one word. -/
theorem flushMovesOneWord : Obligations.FlushMovesOneWord := by
  intro s hwf hb hc hk hcur
  have hstep : busStep s = .next (flushWord s) := by
    rw [busStep_of_transfer hb hc, transferStep_of_flush hk, lastWord_eq_false hcur]
    rfl
  exact ⟨flushWord s, hstep, rfl, rfl, rfl, rfl, read_flushWord hwf⟩

/-! ## The end of a flush (R271, R273) -/

theorem core_finalizeFlush_owner (s : State) :
    (finalizeFlush s).core s.bus.origid = { s.core s.bus.origid with
      cache := (s.core s.bus.origid).cache.setState (addrIndex s.bus.addr) s.bus.postFlush } := by
  rw [finalizeFlush, State.onBus_core, State.setLineState, State.core_onCore_same]

theorem core_finalizeFlush_other (s : State) {o : CoreId} (h : o ≠ s.bus.origid) :
    (finalizeFlush s).core o = s.core o := by
  rw [finalizeFlush, State.onBus_core, State.setLineState, State.core_onCore_other _ _ _ _ h]

/-- Settles O41: with the cursor at 3 the word moved is the last, so the same step gives the drained line its deferred
state. -/
theorem flushFinalizes : Obligations.FlushFinalizes := by
  intro s hwf hb hc hk hcur
  have hstep : busStep s = .next (finalizeFlush (flushWord s)) := by
    rw [busStep_of_transfer hb hc, transferStep_of_flush hk, lastWord_eq_true hcur]
    rfl
  have hword : (s.core s.bus.origid).cache.word (addrIndex s.bus.addr) 3 = flushValue s := by rw [flushValue, hcur]
  have hmem := read_flushWord hwf
  rw [hcur] at hmem
  have hcore : (finalizeFlush (flushWord s)).core s.bus.origid = { s.core s.bus.origid with
      cache := (s.core s.bus.origid).cache.setState (addrIndex s.bus.addr) s.bus.postFlush } :=
    core_finalizeFlush_owner (flushWord s)
  rw [hword]
  refine ⟨_, hstep, rfl, rfl, rfl, hmem, fun o ho => core_finalizeFlush_other (flushWord s) ho, ?_, ?_, fun i => ?_⟩
  · rw [hcore]
  · rw [hcore]
    rfl
  · rw [State.line, hcore]
    exact line_setState ..

end Sys2Proof.Proofs
end

section
/-!
The statement about how long a transaction takes (47_bus_controller.md rules R274 (f) and R276): each step moves it one
cooldown cycle or one word on, and the last one finalizes it.
-/

namespace Sys2Proof.Proofs

open Sys2Proof Sys2Proof.Machine

/-- R274 (f): the steps a transaction still takes, its cooldown cycles and its words to move. -/
def remaining (b : Bus) : Nat := b.cooldown + (4 - b.cursor.val)

/-- The transaction of `b` one step on: the same request, one step less to go. -/
structure Progress (b b' : Bus) : Prop where
  busy : b'.busy = true
  cmd : b'.cmd = b.cmd
  addr : b'.addr = b.addr
  origid : b'.origid = b.origid
  remaining : Proofs.remaining b' + 1 = Proofs.remaining b

/-- R274 (f): the transaction of `b` is over; a Read or ReadExclusive has completed its requester's mailbox, and the
requester holds the block. -/
structure Ended (b : Bus) (t : State) : Prop where
  free : t.bus.busy = false
  served : b.cmd ≠ .flush → (t.core b.origid).mbox.done = true ∧ (t.core b.origid).cache.hit b.addr = true

/-! ## The controller step (R266 to R273) -/

theorem progress_cooldown {b : Bus} (hb : b.busy = true) (hc : 0 < b.cooldown) :
    Progress b { b with cooldown := b.cooldown - 1 } where
  busy := hb
  cmd := rfl
  addr := rfl
  origid := rfl
  remaining := by
    show b.cooldown - 1 + (4 - b.cursor.val) + 1 = b.cooldown + (4 - b.cursor.val)
    omega

theorem progress_word {b : Bus} (hb : b.busy = true) (hcur : b.cursor.val < 3) (w : Word) :
    Progress b { b with data := w, cursor := b.cursor + 1 } where
  busy := hb
  cmd := rfl
  addr := rfl
  origid := rfl
  remaining := by
    have hnext : (b.cursor + 1 : Offset).val = b.cursor.val + 1 := Fin.val_add_one_of_lt' (Nat.succ_lt_succ hcur)
    show b.cooldown + (4 - (b.cursor + 1 : Offset).val) + 1 = b.cooldown + (4 - b.cursor.val)
    omega

/-- A command that is in flight and no Flush is a Read or a ReadExclusive (R46). -/
theorem fill_of_not_flush {k : BusCmd} (h : k ≠ .none) (hf : k ≠ .flush) : k = .read ∨ k = .readExclusive := by
  cases k with
  | none => exact absurd rfl h
  | read => exact .inl rfl
  | readExclusive => exact .inr rfl
  | flush => exact absurd rfl hf

/-- R266 to R268: a controller step that is not the last of its transaction brings it one step on. -/
theorem busStep_progress {s : State} (hmem : Memory.wf Config.memSize s.mem) (hb : s.bus.busy = true)
    (hcmd : s.bus.cmd ≠ .none) (hrem : 1 < remaining s.bus) :
    ∃ t, busStep s = .next t ∧ Progress s.bus t.bus := by
  rcases Nat.eq_zero_or_pos s.bus.cooldown with hc | hc
  · have hlt : s.bus.cursor.val < 3 := by
      rw [remaining, hc] at hrem
      omega
    by_cases hf : s.bus.cmd = .flush
    · obtain ⟨t, ht, -, -, -, hbus, -⟩ := flushMovesOneWord s hmem hb hc hf hlt
      exact ⟨t, ht, hbus ▸ progress_word hb hlt _⟩
    · obtain ⟨t, ht, -, -, -, hbus, -⟩ := fillMovesOneWord s hb hc (fill_of_not_flush hcmd hf) hlt
      exact ⟨t, ht, hbus ▸ progress_word hb hlt _⟩
  · exact ⟨_, busStep_of_cooldown hb hc, progress_cooldown hb hc⟩

theorem fillState_valid (b : Bus) : fillState b ≠ .invalid := by
  rw [fillState, filledState]
  split
  · nofun
  · split <;> nofun

/-- R269 to R273: the last controller step of a transaction ends it. -/
theorem busStep_ended {s : State} (hmem : Memory.wf Config.memSize s.mem) (hb : s.bus.busy = true)
    (hcmd : s.bus.cmd ≠ .none) (hrem : remaining s.bus = 1) : ∃ t, busStep s = .next t ∧ Ended s.bus t := by
  have hlt : s.bus.cursor.val < 4 := s.bus.cursor.isLt
  rw [remaining] at hrem
  have hc : s.bus.cooldown = 0 := by omega
  have hcur : s.bus.cursor = 3 := Fin.ext (by show s.bus.cursor.val = 3; omega)
  by_cases hf : s.bus.cmd = .flush
  · obtain ⟨t, ht, -, -, hbus, -⟩ := flushFinalizes s hmem hb hc hf hcur
    exact ⟨t, ht, by rw [hbus], fun hn => absurd hf hn⟩
  · obtain ⟨t, ht, -, -, -, hbus, -, hcore, hline, -⟩ := fillFinalizes s hb hc (fill_of_not_flush hcmd hf) hcur
    refine ⟨t, ht, by rw [hbus], fun _ => ⟨by rw [hcore], (hit_iff _ _).mpr ?_⟩⟩
    rw [hline, if_pos rfl]
    exact ⟨fillState_valid s.bus, rfl⟩

/-! ## The step and the run -/

section Step

variable {s : State}

/-- A step is the controller step on the evaluated cores, then the clock edge (R300). -/
theorem step_of_busStep {u : State} (h : busStep (evaluated s) = .next u) : step s = .next (endCycle u) := by
  rw [step_eq, h, andThen_next]

/-- The evaluation phase leaves the bus to the controller, and the clock edge leaves it as the controller made it. -/
theorem step_progress (hinv : s.Inv) (hb : s.bus.busy = true) (hrem : 1 < remaining s.bus) :
    ∃ t, step s = .next t ∧ Progress s.bus t.bus := by
  obtain ⟨hcmd, -⟩ := hinv.bus
  obtain ⟨u, hu, hprog⟩ := busStep_progress (s := evaluated s) hinv.mem hb (hcmd hb) hrem
  exact ⟨endCycle u, step_of_busStep hu, hprog⟩

theorem step_ended (hinv : s.Inv) (hb : s.bus.busy = true) (hrem : remaining s.bus = 1) :
    ∃ t, step s = .next t ∧ Ended s.bus t := by
  obtain ⟨hcmd, -⟩ := hinv.bus
  obtain ⟨u, hu, hfree, hserved⟩ := busStep_ended (s := evaluated s) hinv.mem hb (hcmd hb) hrem
  refine ⟨endCycle u, step_of_busStep hu, hfree, fun hf => ?_⟩
  rw [State.core_endCycle, clockEdge_mbox, clockEdge_cache]
  exact hserved hf

end Step

/-- What ends a transaction a step on ends the transaction. -/
theorem Ended.of_progress {b b' : Bus} {t : State} (hp : Progress b b') (h : Ended b' t) : Ended b t where
  free := h.free
  served := by
    rw [← hp.cmd, ← hp.origid, ← hp.addr]
    exact h.served

/-- R274 (f): by induction on the steps a transaction still takes, each of which keeps the invariant. -/
theorem run_ended (n : Nat) {s : State} (hinv : s.Inv) (hb : s.bus.busy = true) (hrem : remaining s.bus = n + 1) :
    ∃ t, Host.Core.run Sys2Proof.core (n + 1) s = .next t ∧ Ended s.bus t := by
  induction n generalizing s with
  | zero =>
    obtain ⟨t, ht, hend⟩ := step_ended hinv hb hrem
    exact ⟨t, run_succ ht 0, hend⟩
  | succ n ih =>
    obtain ⟨u, hu, hprog⟩ := step_progress hinv hb (by omega)
    have hless := hprog.remaining
    obtain ⟨t, ht, hend⟩ := ih (stepKeepsInv s u hinv hu) hprog.busy (by omega)
    exact ⟨t, (run_succ hu _).trans ht, hend.of_progress hprog⟩

/-- Settles O53: the cursor is below 4, so at least one step is left. -/
theorem transactionFinalizesInTime : Obligations.TransactionFinalizesInTime := by
  intro s hinv hb
  have hcur : s.bus.cursor.val < 4 := s.bus.cursor.isLt
  obtain ⟨n, hn⟩ : ∃ n, remaining s.bus = n + 1 :=
    Nat.exists_eq_succ_of_ne_zero (by rw [remaining]; omega)
  obtain ⟨t, ht, hend⟩ := run_ended n hinv hb hn
  rw [← hn] at ht
  exact ⟨t, ht, hend.free, hend.served⟩

end Sys2Proof.Proofs
end

section
/-!
The statements about a whole cycle (48_cycle.md), its counters (60_exceptions.md rule R327), the first cycle after reset
(70_reset_and_hazards.md rule R351) and the words the decoder rejects (30_encoding.md rule R93).
-/

namespace Sys2Proof.Proofs

open Sys2Proof Sys2Proof.Machine

/-! ## The evaluation phase and the completion of a cycle (R300, R301, R303) -/

/-- R301: the evaluation phase makes of a core a function of that core, and leaves bus and memory alone. -/
theorem evalStages_schedule_beginCycle {s u : State} (h : evalStages schedule (beginCycle s) = .next u) :
    (∀ c, u.core c = evalCore (s.core c).clearSignals) ∧ u.bus = s.bus ∧ u.mem = s.mem := by
  rw [evalStages_schedule] at h
  cases h
  exact ⟨evaluated_core s, rfl, rfl⟩

/-- Settles O9: after the phase both cores are the evaluation of the one core the two states share. -/
theorem coresAreIndependentInEvaluation : Obligations.CoresAreIndependentInEvaluation := by
  intro s s' u u' c hcore hu hu'
  obtain ⟨huc, hbus, hmem⟩ := evalStages_schedule_beginCycle hu
  obtain ⟨huc', -, -⟩ := evalStages_schedule_beginCycle hu'
  exact ⟨by rw [huc, huc', hcore], hbus, hmem⟩

/-- Settles O46: the invariant gives every pending request and the transaction in flight a command, and the controller
stops on nothing else. -/
theorem everyCycleCompletes : Obligations.EveryCycleCompletes := by
  intro s hinv
  obtain ⟨t, ht, -⟩ := exists_step (commanded_of_inv hinv)
  exact ⟨t, ht⟩

/-! ## The end of a run (R304) -/

theorem finished_iff {s : State} : s.finished = true ↔ ∀ c : CoreId, (s.core c).halted = true := by
  rw [State.finished, List.all_eq_true]
  constructor
  · exact fun h c => h _ (by simp [State.core])
  · intro h k hk
    obtain ⟨i, hi, rfl⟩ := Vector.getElem_of_mem (Vector.mem_toList_iff.mp hk)
    exact h ⟨i, hi⟩

/-- R207 (e): a halted core holds no instruction in decode or behind it. -/
theorem empty_of_halted {k : Core} (h : k.HaltInv) (hh : k.halted = true) :
    k.slotID.active = false ∧ k.DrainedBehindDecode := by
  obtain ⟨-, -, -, -, hhalted⟩ := h
  obtain ⟨-, hID, hEX, hMEM, hWB⟩ := hhalted hh
  exact ⟨hID, hEX, hMEM, hWB⟩

/-- R245: a mailbox that is not empty belongs to the instruction in the memory stage. -/
theorem mailbox_empty_of_inactive {c : CoreId} {k : Core} (h : k.MailboxInv c) (ha : k.slotMEM.active = false) :
    k.mbox.pending = false ∧ k.mbox.done = false := by
  obtain ⟨-, -, hreq, -⟩ := h
  have hno : ¬ (k.mbox.pending = true ∨ k.mbox.done = true) := fun hm => by
    obtain ⟨hact, -⟩ := hreq hm
    exact absurd (ha.symm.trans hact) nofun
  simpa using hno

/-- R304: with no request pending no transaction is in flight. -/
theorem bus_idle_of_no_request {s : State} (h : s.ServesSomeone) (hp : ∀ c : CoreId, (s.core c).mbox.pending = false) :
    s.bus.busy = false :=
  Bool.eq_false_iff.mpr fun hb => by
    obtain ⟨c, hc⟩ := h hb
    exact absurd ((hp c).symm.trans hc) nofun

/-- Settles O51: a halted core is empty, an empty memory stage has no request, and without a request the bus is idle. -/
theorem endOfRunIsDrained : Obligations.EndOfRunIsDrained := by
  intro s hinv hfin
  have hcore (c : CoreId) : (s.core c).mbox.pending = false ∧ (s.core c).mbox.done = false ∧
      (s.core c).slotID.active = false ∧ (s.core c).DrainedBehindDecode := by
    obtain ⟨hID, hEX, hMEM, hWB⟩ := empty_of_halted (hinv.cores c).halt (finished_iff.mp hfin c)
    obtain ⟨hpending, hdone⟩ := mailbox_empty_of_inactive (hinv.cores c).mailbox hMEM
    exact ⟨hpending, hdone, hID, hEX, hMEM, hWB⟩
  exact ⟨bus_idle_of_no_request hinv.serves fun c => (hcore c).1, hcore⟩

/-! ## The counters of the clock edge over a step (R206, R327) -/

/-- The two counter records agree on what the clock edge counts (R206). -/
def SameEdgeCounts (n m : Counters) : Prop :=
  m.cycles = n.cycles ∧ m.decodeStall = n.decodeStall ∧ m.memStall = n.memStall

theorem sameEdgeCounts_countAccess (k : Core) (retry : Bool) {f : Counters → Counters}
    (h : SameEdgeCounts k.counters (f k.counters)) : SameEdgeCounts k.counters (k.countAccess retry f).counters := by
  cases retry
  · exact h
  · exact ⟨rfl, rfl, rfl⟩

/-- R190, R191: an access counts a hit or a miss. -/
theorem sameEdgeCounts_loadStage (k : Core) : SameEdgeCounts k.counters (loadStage k).counters := by
  rcases loadStage_cases k with ⟨-, e⟩ | ⟨-, -, e⟩ | ⟨-, -, e⟩ <;> rw [e]
  · exact ⟨rfl, rfl, rfl⟩
  · exact sameEdgeCounts_countAccess k.acknowledge k.mbox.done ⟨rfl, rfl, rfl⟩
  · exact sameEdgeCounts_countAccess k.acknowledge k.mbox.done ⟨rfl, rfl, rfl⟩

theorem sameEdgeCounts_storeStage (v : Word) (k : Core) : SameEdgeCounts k.counters (storeStage v k).counters := by
  rcases storeStage_cases v k with ⟨-, e⟩ | ⟨-, -, e⟩ | ⟨-, -, e⟩ <;> rw [e]
  · exact ⟨rfl, rfl, rfl⟩
  · exact sameEdgeCounts_countAccess { k.acknowledge with cache := _ } k.mbox.done ⟨rfl, rfl, rfl⟩
  · exact sameEdgeCounts_countAccess (k.acknowledge.request _ .readExclusive) k.mbox.done ⟨rfl, rfl, rfl⟩

theorem sameEdgeCounts_memory (k : Core) : SameEdgeCounts k.counters (evalStageCore .memory k).counters := by
  rw [evalStageCore_memory]
  split
  · exact sameEdgeCounts_loadStage k
  · split
    · exact sameEdgeCounts_storeStage _ k
    · exact ⟨rfl, rfl, rfl⟩

/-- R206: the evaluation of a core leaves the counting of cycles and stalls to the clock edge. -/
theorem sameEdgeCounts_evalCore (k : Core) : SameEdgeCounts k.counters (evalCore k).counters := by
  have h := sameEdgeCounts_memory (evalStageCore .writeback k)
  rw [evalStageCore_writeback] at h
  rw [evalCore, counters_after_memory, evalStageCore_writeback]
  exact h

/-- R206: a step counts a cycle of a core that is not halted. -/
theorem step_cycles {s t : State} (h : step s = .next t) (c : CoreId) :
    (t.core c).counters.cycles = (s.core c).counters.cycles + if (s.core c).halted then 0 else 1 := by
  obtain ⟨ca, mb, ht⟩ := step_core h c
  obtain ⟨hcycles, -, -⟩ := sameEdgeCounts_evalCore (s.core c).clearSignals
  have hhalted := (kept_evalCore (s.core c).clearSignals).halted
  rw [ht, clockEdge_counters]
  simp only [edgeCounters, hcycles, hhalted, Core.clearSignals_counters, Core.clearSignals_halted]

/-- R180, R206: a step counts a decode stall of a core whose decode instruction has a hazard. -/
theorem step_decodeStall {s t : State} (h : step s = .next t) (c : CoreId) :
    (t.core c).counters.decodeStall = (s.core c).counters.decodeStall +
      if (s.core c).slotID.active && hazard (s.core c) (recordSrcs (decodeRecord (s.core c).slotID.raw)) then 1
      else 0 := by
  obtain ⟨ca, mb, ht⟩ := step_core h c
  obtain ⟨-, hcount, -⟩ := sameEdgeCounts_evalCore (s.core c).clearSignals
  have hstall : (evalCore (s.core c).clearSignals).slotID.stall =
      ((s.core c).slotID.active && hazard (s.core c) (recordSrcs (decodeRecord (s.core c).slotID.raw))) := by
    rw [Bool.eq_iff_iff, Bool.and_eq_true, decStall_evalCore (Core.clearSignals_slotID_stall _),
      (kept_clearSignals (s.core c)).hazard, Core.clearSignals_slotID_active, Core.clearSignals_slotID_raw]
  rw [ht, clockEdge_counters]
  simp only [edgeCounters, hcount, hstall, Core.clearSignals_counters]

/-- Settles O52: writeback counts the instruction, and the clock edge counts the cycle and the decode stall. -/
theorem countersOfOneStep : Obligations.CountersOfOneStep :=
  fun _ _ c h => ⟨step_instructions h c, step_cycles h c, step_decodeStall h c⟩

/-! ## The first cycle (R351, R352) -/

/-- R49: a step counts one clock edge. -/
theorem step_cycle {s t : State} (h : step s = .next t) : t.cycle = s.cycle + 1 := by
  obtain ⟨u, hu, rfl⟩ := step_next h
  rw [endCycle_cycle, (busFrame_busStep hu).cycle, evaluated_cycle]

/-- R195, R203: a core with an empty pipeline fetches the word at its program counter into decode and goes on to the
next word. -/
theorem step_fetches_of_empty {s t : State} {c : CoreId} (h : step s = .next t)
    (hw : (s.core c).wrPending = false) (hID : (s.core c).slotID.active = false)
    (hdr : (s.core c).DrainedBehindDecode) (hstop : (s.core c).stopFetch = false)
    (hhalt : (s.core c).halted = false) (hr : (s.core c).redirectPending = false) :
    (t.core c).pc = (s.core c).pc + 1 ∧
      (t.core c).slotID =
        { active := true, pc := (s.core c).pc, raw := fetchWord (s.core c), result := 0, stall := false } := by
  obtain ⟨e, ca, mb, hev, ht⟩ := step_evaluated h hw
  have hbubble : ¬ (s.core c).clearSignals.slotID.active = true := Bool.eq_false_iff.mp hID
  have hz := hazard_drained (k := (s.core c).clearSignals) hdr
  obtain ⟨-, hMEM, -⟩ := hdr
  obtain ⟨hm, hd⟩ := evaluated_unstalled hev (memoryPasses_of_inactive hMEM) rfl (hz _)
  have hhn : e.sig.haltNow = false := Bool.eq_false_iff.mpr fun hn => hbubble (hev.haltNow.mp hn).1
  have hrn : e.sig.redirNow = false := Bool.eq_false_iff.mpr fun hn => hbubble (hev.redirNow hn).1
  have hfetch : e.sig.fetchEn = true := by simp [hev.fetchEn, hm, hd, hhn, hstop, hhalt]
  constructor
  · calc (t.core c).pc = e.sig.pcNext := by rw [ht, clockEdge_pc]
      _ = _ := by simp [hev.pcNext, hfetch, hr, hrn]
  · calc (t.core c).slotID = { e.slotIF with stall := false } := by rw [ht]; exact clockEdge_slotID hm hd
      _ = _ := by rw [hev.slotIF, if_pos hfetch]; rfl

/-- The word at address 0 of an image is not cut off by the size of its memory (R352). -/
theorem read_zero_ofImage_take (image : List Word) {n : Nat} (h : 0 < n) :
    (Memory.ofImage 0 (image.take n)).read 0 = image.getD 0 0 := by
  rw [Memory.read_ofImage (image.take n) 0 0, List.getD_eq_getElem?_getD, List.getElem?_take_of_lt h,
    List.getD_eq_getElem?_getD]

/-- Settles O43: after reset every pipeline is empty and every `pc` is 0. -/
theorem firstCycleFetchesWordZero : Obligations.FirstCycleFetchesWordZero := by
  intro images memImage
  obtain ⟨t, ht⟩ := everyCycleCompletes _ (invAfterReset images memImage)
  refine ⟨t, ht, step_cycle ht, fun c => ?_⟩
  have hcore := core_reset_loadImages images memImage c
  have hfetch := step_fetches_of_empty (c := c) ht (by rw [hcore]; rfl) (by rw [hcore]; rfl)
    (by rw [hcore]; exact ⟨rfl, rfl, rfl⟩) (by rw [hcore]; rfl) (by rw [hcore]; rfl) (by rw [hcore]; rfl)
  have hword : fetchWord ((State.reset.loadImages images memImage).core c) = images[c].getD 0 0 := by
    rw [hcore]
    exact read_zero_ofImage_take images[c] (by decide)
  rw [hword, hcore] at hfetch
  exact hfetch

/-! ## The words the decoder rejects (R93) -/

/-- R93: no instruction has an opcode of the unknown list. -/
theorem op_known (i : Instr) : ¬ (i.op.toNat = 18 ∨ i.op.toNat = 19 ∨ 21 ≤ i.op.toNat) := by
  cases i <;> simp [Instr.op]

/-- A rejected word is rejected by its own opcode. -/
theorem decode_error_op {w : Word} {e : DecodeError} (h : decode w = .error e) :
    e = .unknownOpcode (decodeRecord w).op := by
  simp only [decode] at h
  split at h
  · cases h
  · exact (Except.error.inj h).symm

/-- Settles O3: a rejected opcode is none of the map's, and an opcode of the map is no unknown one. -/
theorem decodeRejectsExactlyUnknownOpcodes : Obligations.DecodeRejectsExactlyUnknownOpcodes := by
  intro w
  rw [← op_toNat]
  refine ⟨decode_error, fun hunknown => ?_⟩
  cases hd : decode w with
  | ok i =>
    obtain ⟨hop, -⟩ := decode_ok hd
    exact absurd (hop ▸ hunknown) (op_known i)
  | error e => exact congrArg Except.error (decode_error_op hd)

end Sys2Proof.Proofs
end
